-- ==== Sys2Proof/Word.lean ====
section
/-! DEFINITION. The widths of `00_scope.md` rule R7: a byte is 8 bits, a word 16 bits, a binary32
pattern 32 bits. Bit 0 is the least significant bit of every value. -/

namespace Sys2Proof

/-- An operand byte or result byte (R7). -/
abbrev Byte := BitVec 8

/-- A data word or a descriptor (R7). -/
abbrev Word := BitVec 16

/-- A binary32 pattern or another 32-bit value (R7). -/
abbrev Bits32 := BitVec 32

end Sys2Proof
end

