-- ==== Sys2Proof/Machine/Operands.lean ====
section
/-! DEFINITION. The operand forms and byte-order helpers of `00_scope.md` rules R8, R9 and R11: concatenation,
halves of a word, signed and unsigned reading, range checks, and how an operand list is read as words
or as 3-byte chunks (`20_memory.md` rules R53 to R56, `30_encoding.md` rule R72). Big-endian everywhere (R55). -/

namespace Sys2Proof.Machine

/-- `hi8(w) = w[15:8]` (R8). -/
def hi8 (w : Word) : Byte := w.extractLsb' 8 8

/-- `lo8(w) = w[7:0]` (R8). -/
def lo8 (w : Word) : Byte := w.extractLsb' 0 8

/-- `cat16(hi, lo)`, the word `hi * 256 + lo` (R8). -/
def cat16 (hi lo : Byte) : Word := hi ++ lo

/-- `cat32(a, b)`, the value `a * 65536 + b` (R8). -/
def cat32 (a b : Word) : Bits32 := a ++ b

/-- `be32(b0, b1, b2, b3)`, most significant byte first (R11, `20_memory.md` R54c). -/
def be32 (b0 b1 b2 b3 : Byte) : Bits32 := cat32 (cat16 b0 b1) (cat16 b2 b3)

/-- The four bytes of a 32-bit value, most significant first: what `be32` assembles. -/
def bytes32 (x : Bits32) : List Byte :=
  [x.extractLsb' 24 8, x.extractLsb' 16 8, x.extractLsb' 8 8, x.extractLsb' 0 8]

/-- `zext_16(w)` (R9). -/
def zext16 (w : Word) : Int := w.toNat

/-- `sext_16(w)`, two's complement (R9). -/
def sext16 (w : Word) : Int := w.toInt

/-- `int16ok(n)` (R9). -/
def int16ok (n : Int) : Bool := -32768 ≤ n ∧ n ≤ 32767

/-- `uint16ok(n)` (R9). -/
def uint16ok (n : Int) : Bool := 0 ≤ n ∧ n ≤ 65535

/-- `enc16(n)`, the word `n mod 65536` (R9). -/
def enc16 (n : Int) : Word := BitVec.ofInt 16 n

/-- The big-endian words of an operand list: word `j` is `cat16(DIN[2j], DIN[2j+1])` (`30_encoding.md` R72). -/
def wordsOf : List Byte → List Word
  | hi :: lo :: rest => cat16 hi lo :: wordsOf rest
  | _ => []

/-- A 3-byte chunk `(byte_hi, byte_lo, crc)` (`20_memory.md` R53). -/
structure Chunk where
  hi    : Byte
  lo    : Byte
  check : Byte
  deriving DecidableEq, Repr

/-- The data word of a chunk (`20_memory.md` R53). -/
def chunkWord (c : Chunk) : Word := cat16 c.hi c.lo

/-- The chunks of a buffer at byte offsets 0, 3, 6, ... (`20_memory.md` R56). -/
def chunksOf : List Byte → List Chunk
  | hi :: lo :: check :: rest => ⟨hi, lo, check⟩ :: chunksOf rest
  | _ => []

end Sys2Proof.Machine
end

