-- ==== Sys2Proof/Syntax.lean ====
section
/-! DEFINITION. The operations of `spec/opcode_table.json`, one constructor per row, with the operands that
`30_encoding.md` rule R72 assembles from `DIN`. A reserved descriptor is no operation of the table and
has no constructor (rule R79). -/

namespace Sys2Proof

/-- One operation of the block. `bytes` is the operand list `DIN`; its length is `LEN` (R70). -/
inductive Instr
  /-- CRC.INIT, `40_crc.md` R103. -/
  | crcInit
  /-- CRC.FEED, `40_crc.md` R104. -/
  | crcFeed (bytes : List Byte)
  /-- CRC.BUF, `40_crc.md` R105. -/
  | crcBuf (bytes : List Byte)
  /-- FRM.ENC, `40_crc.md` R106. -/
  | frmEnc (bytes : List Byte)
  /-- FRM.CHK, `40_crc.md` R107. -/
  | frmChk (hi lo check : Byte)
  /-- VAL.BUF, `41_validator.md` R120. -/
  | valBuf (bytes : List Byte)
  /-- WBUF.RD, `41_validator.md` R121. -/
  | wbufRd
  /-- CVT.MC, `42_convert.md` R141. -/
  | cvtMc (raw : Word)
  /-- CVT.NC, `42_convert.md` R142. -/
  | cvtNc (raw : Word)
  /-- CVT.TPS, `42_convert.md` R143. -/
  | cvtTps (raw : Word)
  /-- CVT.RH, `42_convert.md` R144. -/
  | cvtRh (raw : Word)
  /-- CVT.T, `42_convert.md` R145. -/
  | cvtT (raw : Word)
  /-- CVT.VOC, `42_convert.md` R146. -/
  | cvtVoc (raw : Word)
  /-- CVT.NOX, `42_convert.md` R147. -/
  | cvtNox (raw : Word)
  /-- CVT.RVOC, `42_convert.md` R148. -/
  | cvtRvoc (raw : Word)
  /-- CVT.RNOX, `42_convert.md` R149. -/
  | cvtRnox (raw : Word)
  /-- CVT.RRH, `42_convert.md` R150. -/
  | cvtRrh (raw : Word)
  /-- CVT.RT, `42_convert.md` R151. -/
  | cvtRt (raw : Word)
  /-- DEC.MV50, `43_decode.md` R173. -/
  | decMv50
  /-- DEC.MV54, `43_decode.md` R174. -/
  | decMv54
  /-- DEC.MV55, `43_decode.md` R175. -/
  | decMv55
  /-- DEC.PM, `43_decode.md` R176. -/
  | decPm
  /-- DEC.RAW, `43_decode.md` R177. -/
  | decRaw
  /-- DEC.RDY, `43_decode.md` R178. -/
  | decRdy
  /-- DEC.STS, `43_decode.md` R179. -/
  | decSts
  /-- DEC.STR, `43_decode.md` R180. -/
  | decStr
  /-- DEC.CMP, `44_compensation.md` R203. -/
  | decCmp
  /-- CMP.ENC, `44_compensation.md` R202: three binary32 patterns. -/
  | cmpEnc (x0 x1 x2 : Bits32)
  /-- CFG.SEN50, `45_config.md` R220. -/
  | cfgSen50
  /-- CFG.SEN54, `45_config.md` R220. -/
  | cfgSen54
  /-- CFG.SEN55, `45_config.md` R220. -/
  | cfgSen55
  /-- CFG.RDV, `45_config.md` R221. -/
  | cfgRdv
  deriving DecidableEq, Repr

end Sys2Proof
end

