-- ==== Sys2Proof/WellFormed.lean ====
section
/-! DEFINITION. Which terms of `Instr` an operation can be: `LEN` has 8 bits, so a byte list has at most
255 bytes (`30_encoding.md` rules R70, R71). Every other operand is bounded by its width. An illegal count that the
encoding admits (FRM.ENC with an odd `LEN`) is well-formed: the operation itself rejects it (R77). -/

namespace Sys2Proof

/-- The operand count fits the `LEN` field (R71). -/
def fitsLen (bytes : List Byte) : Bool := bytes.length ≤ 255

/-- The well-formed operations: those some `(DESC, DIN)` stands for. -/
def Instr.wf : Instr → Bool
  | .crcFeed bytes => fitsLen bytes
  | .crcBuf bytes => fitsLen bytes
  | .frmEnc bytes => fitsLen bytes
  | .valBuf bytes => fitsLen bytes
  | .crcInit | .frmChk _ _ _ | .wbufRd => true
  | .cvtMc _ | .cvtNc _ | .cvtTps _ | .cvtRh _ | .cvtT _ | .cvtVoc _ | .cvtNox _ => true
  | .cvtRvoc _ | .cvtRnox _ | .cvtRrh _ | .cvtRt _ => true
  | .decMv50 | .decMv54 | .decMv55 | .decPm | .decRaw | .decRdy | .decSts | .decStr | .decCmp => true
  | .cmpEnc _ _ _ => true
  | .cfgSen50 | .cfgSen54 | .cfgSen55 | .cfgRdv => true

end Sys2Proof
end

