-- ==== Sys2Proof/Decode.lean ====
section
/-! DEFINITION. The decoder of `30_encoding.md` rules R70 to R79, total on every descriptor and operand list, and the
encoder written from the same tables. The block fetches nothing (`20_memory.md` rule R62): an operation is the
pair `(DESC, DIN)` the host presents. -/

namespace Sys2Proof

open Machine

/-! ## Descriptor fields (R71) -/

/-- `OP`, bits 15:12. -/
def opField (desc : Word) : BitVec 4 := desc.extractLsb' 12 4

/-- `SEL`, bits 11:8. -/
def selField (desc : Word) : BitVec 4 := desc.extractLsb' 8 4

/-- `LEN`, bits 7:0, the number of operand bytes. -/
def lenField (desc : Word) : BitVec 8 := desc.extractLsb' 0 8

/-- The descriptor with the given fields. -/
def mkDesc (op sel : BitVec 4) (len : BitVec 8) : Word := op ++ (sel ++ len)

/-! ## Decoding (R72 to R79) -/

/-- Why a pair `(DESC, DIN)` is no operation of the table. The three reserved reasons are the ways R79 lists; the block
answers them alike, with `ILLEGAL_OP`, and only the reader sees the name (log 14). -/
inductive DecodeError
  /-- `DIN` has not exactly `LEN` bytes: not an operation at all (R70; `60_exceptions.md` R253a). -/
  | operandCount
  /-- `OP` in 0x0, 0xD, 0xE, 0xF (R79). -/
  | reservedOp
  /-- A non-zero `SEL` where the group uses none, or a `SEL` outside the group's table (R79). -/
  | reservedSel
  /-- A `LEN` other than the fixed one (R77, R79). -/
  | reservedLen
  deriving DecidableEq, Repr

/-- The largest `SEL` of each group (R73 to R76), none for a reserved `OP`. -/
def maxSel (op : BitVec 4) : Option Nat :=
  match op.toNat with
  | 1 | 2 | 3 | 4 | 5 | 6 | 7 => some 0
  | 8 => some 10
  | 9 => some 8
  | 10 => some 0
  | 11 => some 2
  | 12 => some 0
  | _ => none

/-- Which of R79's ways a reserved descriptor is reserved in. -/
def reservedReason (desc : Word) : DecodeError :=
  match maxSel (opField desc) with
  | none => .reservedOp
  | some m => if m < (selField desc).toNat then .reservedSel else .reservedLen

/-- An operation without operands: `LEN` is 0 (R72). -/
def noOperand (i : Instr) : List Byte → Option Instr
  | [] => some i
  | _ :: _ => none

/-- A raw of two bytes, `cat16(DIN[0], DIN[1])`: `LEN` is 2 (R72). -/
def rawOperand (op : Word → Instr) : List Byte → Option Instr
  | [hi, lo] => some (op (cat16 hi lo))
  | _ => none

/-- A chunk of three bytes: `LEN` is 3 (R72). -/
def chunkOperand : List Byte → Option Instr
  | [hi, lo, check] => some (.frmChk hi lo check)
  | _ => none

/-- Three big-endian binary32 patterns: `LEN` is 12 (R72). -/
def patternOperands : List Byte → Option Instr
  | [b0, b1, b2, b3, b4, b5, b6, b7, b8, b9, b10, b11] =>
    some (.cmpEnc (be32 b0 b1 b2 b3) (be32 b4 b5 b6 b7) (be32 b8 b9 b10 b11))
  | _ => none

/-- The field kind of each `SEL` of group CVT (R74). -/
def cvtOperation : Nat → Option (Word → Instr)
  | 0 => some .cvtMc
  | 1 => some .cvtNc
  | 2 => some .cvtTps
  | 3 => some .cvtRh
  | 4 => some .cvtT
  | 5 => some .cvtVoc
  | 6 => some .cvtNox
  | 7 => some .cvtRvoc
  | 8 => some .cvtRnox
  | 9 => some .cvtRrh
  | 10 => some .cvtRt
  | _ => none

/-- The record of each `SEL` of group DEC (R75). -/
def decOperation : Nat → Option Instr
  | 0 => some .decMv50
  | 1 => some .decMv54
  | 2 => some .decMv55
  | 3 => some .decPm
  | 4 => some .decRaw
  | 5 => some .decRdy
  | 6 => some .decSts
  | 7 => some .decStr
  | 8 => some .decCmp
  | _ => none

/-- The variant of each `SEL` of group CFG (R76). -/
def cfgOperation : Nat → Option Instr
  | 0 => some .cfgSen50
  | 1 => some .cfgSen54
  | 2 => some .cfgSen55
  | _ => none

/-- A group that uses no `SEL` (R73). -/
def selZero (sel : Nat) (i : Option Instr) : Option Instr := if sel = 0 then i else none

/-- Rule R78 with the operand assembly of R72, on `OP`, `SEL` and an operand list of `LEN` bytes: a fixed `LEN` is the
shape of the list. -/
def decodeFields (op sel : Nat) (din : List Byte) : Option Instr :=
  match op with
  | 0x1 => selZero sel (noOperand .crcInit din)
  | 0x2 => selZero sel (some (.crcFeed din))
  | 0x3 => selZero sel (some (.crcBuf din))
  | 0x4 => selZero sel (some (.frmEnc din))
  | 0x5 => selZero sel (chunkOperand din)
  | 0x6 => selZero sel (some (.valBuf din))
  | 0x7 => selZero sel (noOperand .wbufRd din)
  | 0x8 => (cvtOperation sel).bind fun op => rawOperand op din
  | 0x9 => (decOperation sel).bind fun i => noOperand i din
  | 0xA => selZero sel (patternOperands din)
  | 0xB => (cfgOperation sel).bind fun i => noOperand i din
  | 0xC => selZero sel (noOperand .cfgRdv din)
  | _ => none

/-- The operation a presented pair stands for, or the name of the reason it is none (R78, R79). -/
def decode (desc : Word) (din : List Byte) : Except DecodeError Instr :=
  if din.length ≠ (lenField desc).toNat then .error .operandCount
  else match decodeFields (opField desc).toNat (selField desc).toNat din with
    | some i => .ok i
    | none => .error (reservedReason desc)

/-! ## Encoding (R73 to R76, R80) -/

/-- `OP` and `SEL` of each operation (R73 to R76). -/
def opSel : Instr → BitVec 4 × BitVec 4
  | .crcInit => (0x1, 0)
  | .crcFeed _ => (0x2, 0)
  | .crcBuf _ => (0x3, 0)
  | .frmEnc _ => (0x4, 0)
  | .frmChk _ _ _ => (0x5, 0)
  | .valBuf _ => (0x6, 0)
  | .wbufRd => (0x7, 0)
  | .cvtMc _ => (0x8, 0)
  | .cvtNc _ => (0x8, 1)
  | .cvtTps _ => (0x8, 2)
  | .cvtRh _ => (0x8, 3)
  | .cvtT _ => (0x8, 4)
  | .cvtVoc _ => (0x8, 5)
  | .cvtNox _ => (0x8, 6)
  | .cvtRvoc _ => (0x8, 7)
  | .cvtRnox _ => (0x8, 8)
  | .cvtRrh _ => (0x8, 9)
  | .cvtRt _ => (0x8, 10)
  | .decMv50 => (0x9, 0)
  | .decMv54 => (0x9, 1)
  | .decMv55 => (0x9, 2)
  | .decPm => (0x9, 3)
  | .decRaw => (0x9, 4)
  | .decRdy => (0x9, 5)
  | .decSts => (0x9, 6)
  | .decStr => (0x9, 7)
  | .decCmp => (0x9, 8)
  | .cmpEnc _ _ _ => (0xA, 0)
  | .cfgSen50 => (0xB, 0)
  | .cfgSen54 => (0xB, 1)
  | .cfgSen55 => (0xB, 2)
  | .cfgRdv => (0xC, 0)

/-- The operand bytes of each operation, in the order R72 reads them. -/
def operandBytes : Instr → List Byte
  | .crcFeed bytes | .crcBuf bytes | .frmEnc bytes | .valBuf bytes => bytes
  | .frmChk hi lo check => [hi, lo, check]
  | .cvtMc raw | .cvtNc raw | .cvtTps raw | .cvtRh raw | .cvtT raw | .cvtVoc raw | .cvtNox raw => [hi8 raw, lo8 raw]
  | .cvtRvoc raw | .cvtRnox raw | .cvtRrh raw | .cvtRt raw => [hi8 raw, lo8 raw]
  | .cmpEnc x0 x1 x2 => bytes32 x0 ++ bytes32 x1 ++ bytes32 x2
  | .crcInit | .wbufRd => []
  | .decMv50 | .decMv54 | .decMv55 | .decPm | .decRaw | .decRdy | .decSts | .decStr | .decCmp => []
  | .cfgSen50 | .cfgSen54 | .cfgSen55 | .cfgRdv => []

/-- The pair `(DESC, DIN)` of an operation: `LEN` is the operand count (R70, R80). -/
def encode (i : Instr) : Word × List Byte :=
  (mkDesc (opSel i).1 (opSel i).2 (BitVec.ofNat 8 (operandBytes i).length), operandBytes i)

/-! ## The opcode table's numbering of bits -/

/-- The pair `(DESC, DIN)` of a table word of `nbits` bits: the descriptor is bits 15:0 and operand byte `k` is the eight
bits from bit `16 + 8k`; every bit above `nbits` is 0, and `DIN` has the `LEN` bytes the descriptor asks for (log 11). -/
def tableOperation (nbits w : Nat) : Word × List Byte :=
  let w := w % 2 ^ nbits
  let desc := BitVec.ofNat 16 w
  (desc, (List.range (lenField desc).toNat).map fun k => BitVec.ofNat 8 (w >>> (16 + 8 * k)))

/-- The operation the decoder reads from a table word. -/
def decodeTableWord (nbits w : Nat) : Option Instr :=
  match decode (tableOperation nbits w).1 (tableOperation nbits w).2 with
  | .ok i => some i
  | .error _ => none

end Sys2Proof
end

