-- ==== Sys2Proof/Config.lean ====
section
/-! DEFINITION. The implementation parameters of `00_scope.md` rule R6. `MAX_CHUNKS` is fixed. The other
three are parameters of the model: each instruction's shared operation takes them as an argument, and the
machine runs with `Config.params`, an opaque value, so that whatever is proved holds for every legal
choice (logs 3, 4 and 5). `Params.default` holds the defaults the spec gives. -/

namespace Sys2Proof.Config

/-- `MAX_CHUNKS`, the capacity of the word buffer in 3-byte chunks: 16, fixed (R6, 92 D10). -/
def maxChunks : Nat := 16

/-- A legal value of `NAN_BITS` (R6: "any pattern with exponent bits 0xFF and a non-zero fraction"): its sign
and its fraction less one, so that every value of this type is a NaN pattern and every NaN pattern is one. -/
structure NanPattern where
  sign : Bool
  fractionLessOne : Fin 8388607
  deriving DecidableEq, Repr, Inhabited

/-- A legal value of `RAW_VARIANTS` (R6: "a subset of {SEN50, SEN54, SEN55}"): one membership bit each. NONE is in
no such subset. -/
structure RawVariants where
  sen50 : Bool
  sen54 : Bool
  sen55 : Bool
  deriving DecidableEq, Repr, Inhabited

/-- `COMP_ROUNDING` (R6): the tie rule of the compensation encoder. -/
inductive Rounding
  /-- `HALF_AWAY`: a tie goes away from zero. -/
  | halfAway
  /-- `HALF_EVEN`: a tie goes to the even integer. -/
  | halfEven
  deriving DecidableEq, Repr, Inhabited

/-- The three open parameters of R6. -/
structure Params where
  nan          : NanPattern
  rawVariants  : RawVariants
  compRounding : Rounding
  deriving DecidableEq, Repr, Inhabited

/-- The defaults of R6: `NAN_BITS` = 0x7FC00000, `RAW_VARIANTS` = SEN54 and SEN55, `COMP_ROUNDING` = `HALF_AWAY`. -/
def Params.default : Params where
  nan := ⟨false, 0x3FFFFF⟩
  rawVariants := ⟨false, true, true⟩
  compRounding := .halfAway

/-- The parameters of the block at hand, fixed and never changed at run time (`10_state.md` rule R21,
`70_reset_and_hazards.md` rule R272). No body: no proof can see which legal value it is (DESIGN CHOICE, safe;
logs 3, 4, 5). -/
opaque params : Params

end Sys2Proof.Config
end

