-- ==== Sys2Proof/Machine/Float.lean ====
section
/-! DEFINITION. The numbers of `00_scope.md` rules R10 and R11: exact quotients, the roundings to an integer, and
binary32 (IEEE 754, round to nearest, ties to even). Everything is exact arithmetic on Nat and Int, narrowed once.
Magnitudes are counted in units of 2^-149, the smallest binary32 quantum, so that no exponent is negative. -/

namespace Sys2Proof.Machine

/-! ## Exact quotients (R10) -/

/-- The exact rational `num / den`; every quotient the model forms has `den > 0`. -/
structure Frac where
  num : Int
  den : Nat
  deriving DecidableEq, Repr

/-- An exact product with an integer scale. -/
def Frac.scale (q : Frac) (k : Nat) : Frac := ⟨q.num * k, q.den⟩

/-- The rational number a quotient is; statements are read in these terms. -/
def Frac.toRat (q : Frac) : ℚ := (q.num : ℚ) / (q.den : ℚ)

/-- The nearest natural number to `a / d`; the mode decides an exact tie. -/
def roundNat (mode : Config.Rounding) (a d : Nat) : Nat :=
  let q := a / d
  let twice := 2 * (a % d)
  if twice < d then q
  else if d < twice then q + 1
  else match mode with
    | .halfAway => q + 1
    | .halfEven => q + q % 2

/-- `round_half_away(x)` and `round_half_even(x)`: by magnitude, then the sign (R10). -/
def roundFrac (mode : Config.Rounding) (q : Frac) : Int :=
  q.num.sign * (roundNat mode q.num.natAbs q.den : Nat)

/-- `trunc(x)`: toward zero (R10). -/
def truncFrac (q : Frac) : Int :=
  q.num.tdiv q.den

/-! ## binary32 (R11) -/

/-- The exponent bits `p[30:23]`. -/
def expField (p : Bits32) : BitVec 8 := p.extractLsb' 23 8

/-- The fraction bits `p[22:0]`. -/
def fracField (p : Bits32) : BitVec 23 := p.extractLsb' 0 23

/-- The sign bit `p[31]`. -/
def signBit (p : Bits32) : Bool := p.getLsbD 31

/-- `isnan32(p)`. -/
def isNan32 (p : Bits32) : Bool := expField p == 0xFF && fracField p != 0

/-- `isinf32(p)`. -/
def isInf32 (p : Bits32) : Bool := expField p == 0xFF && fracField p == 0

/-- Neither NaN nor infinite. -/
def isFinite32 (p : Bits32) : Bool := expField p != 0xFF

/-- The magnitude of a finite pattern in units of 2^-149: the fraction alone when the exponent bits are 0, else the fraction
with its leading one, shifted by the exponent. -/
def mag32 (p : Bits32) : Nat :=
  if expField p = 0 then (fracField p).toNat
  else (2 ^ 23 + (fracField p).toNat) * 2 ^ ((expField p).toNat - 1)

/-- `val32(p)` of a finite pattern. -/
def val32 (p : Bits32) : Frac :=
  ⟨if signBit p then -(mag32 p : Int) else (mag32 p : Int), 2 ^ 149⟩

/-- The magnitude bits of the rounded quotient of `n` units of 2^-149 by `d`: with 24 significant bits the quantum is `2^u`
units, and a carry out of the significand moves the exponent by itself. A result past the largest finite value is infinity
(log 10). -/
def rneBits (n d : Nat) : Nat :=
  let u := Nat.log2 (n / d) - 23
  min (u * 2 ^ 23 + roundNat .halfEven n (d * 2 ^ u)) 0x7F800000

/-- `rne32(q)`; `rne32(0)` is positive zero (R11). -/
def rne32 (q : Frac) : Bits32 :=
  let bits := BitVec.ofNat 32 (rneBits (q.num.natAbs * 2 ^ 149) q.den)
  if q.num < 0 then bits ||| 0x80000000 else bits

/-- The pattern of a `NAN_BITS` value: exponent bits 0xFF and a non-zero fraction (`00_scope.md` R6). -/
def nanBits (n : Config.NanPattern) : Bits32 :=
  BitVec.ofBool n.sign ++ ((0xFF : BitVec 8) ++ BitVec.ofNat 23 (n.fractionLessOne.val + 1))

end Sys2Proof.Machine
end

