-- ==== Sys2Proof/Machine/State.lean ====
section
/-! DEFINITION. The block's whole state (`10_state.md` rules R20 to R36), its value at reset, and the reasons a step of the
model stops. -/

namespace Sys2Proof.Machine

/-- The chip variants of `10_state.md` rule R23: all four codes of the 2-bit register (log 13). -/
inductive Variant
  | sen50
  | sen54
  | sen55
  | none
  deriving DecidableEq, Repr

/-- The status codes of `60_exceptions.md` rule R240 by name. -/
inductive Status
  | ok
  | crcMismatch
  | invalidArgument
  | unsupportedVariant
  | noData
  | illegalOp
  deriving DecidableEq, Repr

/-- What a `respond` names (`00_scope.md` rule R12): the status and the ports. A port left out is cleared
(`10_state.md` rule R32). -/
structure Response where
  status : Status
  rbyte  : List Byte := []
  rword  : List Word := []
  rval   : List Bits32 := []
  rflag  : Bool := false
  ru32   : Bits32 := 0
  deriving DecidableEq, Repr

/-- Who presents an operation: the one host of `00_scope.md` rule R15, or a second one (`20_memory.md` rule R59). -/
inductive Issuer
  | host
  | secondHost
  deriving DecidableEq, Repr

/-- What reaches the block from outside: an operation `(DESC, DIN)` (`00_scope.md` rule R12), or reset
(`70_reset_and_hazards.md` rule R270). -/
inductive Input
  | operation (issuer : Issuer) (desc : Word) (din : List Byte)
  | reset
  deriving DecidableEq, Repr

/-- The block's state. The first eleven fields are the whole table of `10_state.md` rule R20. `inputs` is the model's own:
what the host still presents, oldest first (DESIGN CHOICE, safe; log 1). -/
structure State where
  /-- `ACC`, the CRC accumulator (R22). -/
  acc     : Byte
  /-- `VARIANT` (R23). -/
  variant : Variant
  /-- `WVALID` (R24). -/
  wvalid  : Bool
  /-- `WCOUNT`, 5 bits (R25). -/
  wcount  : BitVec 5
  /-- `WBUF[0..15]`, each a word or the spec's own "none" (R26). -/
  wbuf    : Vector (Option Word) 16
  /-- `STATUS`, 3 bits (R31). -/
  status  : BitVec 3
  /-- `RBYTE` (R33). -/
  rbyte   : List Byte
  /-- `RWORD` (R33). -/
  rword   : List Word
  /-- `RVAL` (R33). -/
  rval    : List Bits32
  /-- `RFLAG` (R30, R33). -/
  rflag   : Bool
  /-- `RU32` (R33). -/
  ru32    : Bits32
  /-- What the host still presents, oldest first: the model's own field (log 1). -/
  inputs  : List Input
  deriving DecidableEq, Repr

/-- The reset values of `10_state.md` rule R36, and nothing presented (DESIGN CHOICE; log 1). -/
def State.reset : State where
  acc := 0xFF
  variant := .none
  wvalid := false
  wcount := 0
  wbuf := Vector.replicate 16 .none
  status := 0
  rbyte := []
  rword := []
  rval := []
  rflag := false
  ru32 := 0
  inputs := []

/-- The one fault of the model. The block itself has none: its errors are status codes (`60_exceptions.md` R253). -/
inductive Fault
  /-- Raised by WBUF.RD and the DEC operations where a `WBUF` entry below the count they read is none. The spec forbids giving
  such an entry a value (`10_state.md` R26) and rules the state out (R27). Safe; log 8. -/
  | wbufEntryNone
  deriving DecidableEq, Repr

/-- The runs a model refuses (`60_exceptions.md` R253). -/
inductive Refusal
  /-- An instruction without a meaning, by its mnemonic: raised by no arm of this model. Safe. -/
  | notModelled (mnemonic : String)
  /-- Raised when an operation is presented with an operand list that has not `LEN` bytes (R253a, `70_reset_and_hazards.md`
  R284). Safe; log 6. -/
  | operandCount
  /-- Raised when a second host presents an operation (R253b, `20_memory.md` R59). Safe; log 7. -/
  | secondHost
  deriving DecidableEq, Repr

/-- What an operation answers. -/
abbrev Result := Host.Outcome State Fault Refusal

end Sys2Proof.Machine
end

