-- ==== Sys2Proof/Machine/Ops.lean ====
section
/-! DEFINITION. The named operations over the block's registers: ending an operation (`respond`, `raise`), the word
buffer, and the decoders' prelude. `raise` is what exception entry is on this hardware: an error is a status code, nothing is
saved, no mode changes and nothing returns from it (`60_exceptions.md` rules R246, R247). -/

namespace Sys2Proof.Machine

/-- The numbers of `60_exceptions.md` rule R240; 6 and 7 are never written. -/
def Status.code : Status → BitVec 3
  | .ok => 0
  | .crcMismatch => 1
  | .invalidArgument => 2
  | .unsupportedVariant => 3
  | .noData => 4
  | .illegalOp => 5

/-- The numbers of `10_state.md` rule R23. -/
def Variant.code : Variant → BitVec 2
  | .sen50 => 0
  | .sen54 => 1
  | .sen55 => 2
  | .none => 3

/-! ## Ending an operation -/

/-- `respond(S, port = value, ...)`: writes all six latches, clearing each port not named (`00_scope.md` R12,
`10_state.md` R32). -/
def respond (r : Response) (s : State) : State :=
  { s with
    status := r.status.code, rbyte := r.rbyte, rword := r.rword, rval := r.rval, rflag := r.rflag, ru32 := r.ru32 }

/-- `raise S`: `respond(S)` with no port named (`00_scope.md` R12; `60_exceptions.md` R246). -/
def raise (code : Status) (s : State) : State :=
  respond { status := code } s

/-- A reserved descriptor: `respond(ILLEGAL_OP)`, and no other state changes (`30_encoding.md` R79). -/
def illegalOp (s : State) : State :=
  raise .illegalOp s

/-! ## The word buffer -/

/-- `WBUF[j]`; an index past the buffer has no entry (`10_state.md` R26). -/
def wbufEntry (s : State) (j : Nat) : Option Word :=
  if h : j < 16 then s.wbuf[j] else .none

/-- `WVALID <- 0; WCOUNT <- 0`, every entry none: the old commit is gone (`41_validator.md` R120). -/
def invalidate (s : State) : State :=
  { s with wvalid := false, wcount := 0, wbuf := Vector.replicate 16 .none }

/-- `WBUF[j] <- words[j]`, `WCOUNT <- k`, `WVALID <- 1` over an invalidated buffer (`41_validator.md` R120). -/
def commit (words : List Word) (s : State) : State :=
  { s with
    wvalid := true
    wcount := BitVec.ofNat 5 words.length
    wbuf := Vector.ofFn fun j => words[j.val]? }

/-- `w[j] <- WBUF[j]` for `j` in `0..n-1`, where each of these entries is a word. -/
def committedWords (n : Nat) (s : State) : Option (Vector Word n) :=
  if h : ∀ j : Fin n, (wbufEntry s j).isSome = true then
    some (Vector.ofFn fun j => (wbufEntry s j).get (h j))
  else .none

/-- Read the first `n` entries and answer with the response they give. An entry that is none has no value to give
(`10_state.md` R26; log 8). -/
def respondWithWords (n : Nat) (answer : Vector Word n → Response) (s : State) : Result :=
  match committedWords n s with
  | some w => .next (respond (answer w) s)
  | .none => .fault .wbufEntryNone

/-- `prelude(G, n)` and then the decoder's own `respond` (`43_decode.md` R170): the gate before any data, then the
commit, then the count. `gate` says whether `VARIANT` is in `G`, and is true for `ANY`. -/
def decodeRecord (gate : Bool) (n : Nat) (answer : Vector Word n → Response) (s : State) : Result :=
  if gate = false then .next (raise .unsupportedVariant s)
  else if s.wvalid = false then .next (raise .noData s)
  else if s.wcount.toNat ≠ n then .next (raise .invalidArgument s)
  else respondWithWords n answer s

end Sys2Proof.Machine
end

