-- ==== Sys2Proof/Machine/Convert.lean ====
section
/-! DEFINITION. The fixed-point-to-float converter (`42_convert.md` rules R140 to R151). -/

namespace Sys2Proof.Machine

/-- The field kinds of R140. -/
inductive Kind
  | mc | nc | tps | rh | t | voc | nox | rvoc | rnox | rrh | rt
  deriving DecidableEq, Repr

/-- One row of R140's table. -/
structure Scaling where
  signed   : Bool
  divisor  : Nat
  sentinel : Word
  deriving DecidableEq, Repr

/-- The table of R140: signedness, divisor `D(k)` and sentinel `S(k)`. -/
def scaling : Kind → Scaling
  | .mc => ⟨false, 10, 0xFFFF⟩
  | .nc => ⟨false, 10, 0xFFFF⟩
  | .tps => ⟨false, 1000, 0xFFFF⟩
  | .rh => ⟨true, 100, 0x7FFF⟩
  | .t => ⟨true, 200, 0x7FFF⟩
  | .voc => ⟨true, 10, 0x7FFF⟩
  | .nox => ⟨true, 10, 0x7FFF⟩
  | .rvoc => ⟨false, 1, 0xFFFF⟩
  | .rnox => ⟨false, 1, 0xFFFF⟩
  | .rrh => ⟨true, 100, 0x7FFF⟩
  | .rt => ⟨true, 200, 0x7FFF⟩

/-- The exact quotient of a raw that is not the sentinel (R140). -/
def quotient (k : Kind) (raw : Word) : Frac :=
  ⟨if (scaling k).signed then sext16 raw else zext16 raw, (scaling k).divisor⟩

/-- `conv(k, raw)`: the value and the available bit. The sentinel test compares the 16-bit pattern (R140). -/
def conv (p : Config.Params) (k : Kind) (raw : Word) : Bits32 × Bool :=
  if raw = (scaling k).sentinel then (nanBits p.nan, false)
  else (rne32 (quotient k raw), true)

/-- `conv(k, raw).0`, as the decoders use it. -/
def convValue (p : Config.Params) (k : Kind) (raw : Word) : Bits32 := (conv p k raw).1

/-- The template of the eleven CVT operations (`42_convert.md` section 2). -/
def convert (p : Config.Params) (k : Kind) (raw : Word) (s : State) : State :=
  respond { status := .ok, rval := [(conv p k raw).1], rflag := (conv p k raw).2, rword := [raw] } s

/-- CVT.MC (R141). -/
def execCvtMc (raw : Word) (s : State) : Result := .next (convert Config.params .mc raw s)

/-- CVT.NC (R142). -/
def execCvtNc (raw : Word) (s : State) : Result := .next (convert Config.params .nc raw s)

/-- CVT.TPS (R143). -/
def execCvtTps (raw : Word) (s : State) : Result := .next (convert Config.params .tps raw s)

/-- CVT.RH (R144). -/
def execCvtRh (raw : Word) (s : State) : Result := .next (convert Config.params .rh raw s)

/-- CVT.T (R145). -/
def execCvtT (raw : Word) (s : State) : Result := .next (convert Config.params .t raw s)

/-- CVT.VOC (R146). -/
def execCvtVoc (raw : Word) (s : State) : Result := .next (convert Config.params .voc raw s)

/-- CVT.NOX (R147). -/
def execCvtNox (raw : Word) (s : State) : Result := .next (convert Config.params .nox raw s)

/-- CVT.RVOC (R148). -/
def execCvtRvoc (raw : Word) (s : State) : Result := .next (convert Config.params .rvoc raw s)

/-- CVT.RNOX (R149). -/
def execCvtRnox (raw : Word) (s : State) : Result := .next (convert Config.params .rnox raw s)

/-- CVT.RRH (R150). -/
def execCvtRrh (raw : Word) (s : State) : Result := .next (convert Config.params .rrh raw s)

/-- CVT.RT (R151). -/
def execCvtRt (raw : Word) (s : State) : Result := .next (convert Config.params .rt raw s)

end Sys2Proof.Machine
end

