-- ==== Sys2Proof/Machine/Compensation.lean ====
section
/-! DEFINITION. The temperature-compensation pair: CMP.ENC and DEC.CMP (`44_compensation.md` rules R200 to R203). -/

namespace Sys2Proof.Machine

/-- The scale of `offset_reg`, 200 per °C (R200). -/
def offsetScale : Nat := 200

/-- The scale of `slope_reg`, 10000 per unit (R200). -/
def slopeScale : Nat := 10000

/-! ## Value to register (R201, R202) -/

/-- The three integers before narrowing: rounded offset, rounded slope, truncated time constant. -/
def compIntegers (p : Config.Params) (x0 x1 x2 : Bits32) : Int × Int × Int :=
  (roundFrac p.compRounding ((val32 x0).scale offsetScale),
   roundFrac p.compRounding ((val32 x1).scale slopeScale),
   truncFrac (val32 x2))

/-- Every value fits its register: signed, signed, unsigned (R200, R202). -/
def compInRange (v : Int × Int × Int) : Bool :=
  int16ok v.1 && int16ok v.2.1 && uint16ok v.2.2

/-- The three register words of integers in range. -/
def compWords (v : Int × Int × Int) : List Word :=
  [enc16 v.1, enc16 v.2.1, enc16 v.2.2]

/-- CMP.ENC with its parameters (R202): the inputs' finiteness first, then every range, then the output. -/
def compEncode (p : Config.Params) (x0 x1 x2 : Bits32) (s : State) : State :=
  if [x0, x1, x2].any (fun x => isNan32 x || isInf32 x) then raise .invalidArgument s
  else
    let v := compIntegers p x0 x1 x2
    if compInRange v then respond { status := .ok, rword := compWords v, rbyte := (compWords v).flatMap frame } s
    else raise .invalidArgument s

/-- CMP.ENC (R202). -/
def execCmpEnc (x0 x1 x2 : Bits32) (s : State) : Result :=
  .next (compEncode Config.params x0 x1 x2 s)

/-! ## Register to value (R203) -/

/-- `offset_degree` of a register word (R200). -/
def offsetDegree (w : Word) : Bits32 := rne32 ⟨sext16 w, offsetScale⟩

/-- `slope_factor` of a register word (R200). -/
def slopeFactor (w : Word) : Bits32 := rne32 ⟨sext16 w, slopeScale⟩

/-- `time_constant_second` of a register word (R200). -/
def timeConstantSecond (w : Word) : Bits32 := rne32 ⟨zext16 w, 1⟩

/-- The compensation record (R203): no sentinel. -/
def cmpRecord (w : Vector Word 3) : Response :=
  { status := .ok, rval := [offsetDegree w[0], slopeFactor w[1], timeConstantSecond w[2]], rword := w.toList }

/-- DEC.CMP (R203). -/
def execDecCmp (s : State) : Result :=
  decodeRecord true 3 cmpRecord s

end Sys2Proof.Machine
end

