-- ==== Sys2Proof/Machine/Flags.lean ====
section
/-! DEFINITION. Every computation of `RFLAG` that is more than a constant (`10_state.md` rule R30): the validity flags of
`43_decode.md` rule R172, the data-ready flag of R178 and the device-status flag of R179. -/

namespace Sys2Proof.Machine

/-- A raw is not the unsigned sentinel (`43_decode.md` R172). -/
def notSentinel (w : Word) : Bool := w != 0xFFFF

/-- `mv_valid(w)`: the AND over the four mass-concentration raws (R172). -/
def mvValid (w : Vector Word 8) : Bool :=
  notSentinel w[0] && notSentinel w[1] && notSentinel w[2] && notSentinel w[3]

/-- `pm_valid(w)`: the AND over all ten raws of the PM-values record (R172; `90_conflicts.md` C2). -/
def pmValid (w : Vector Word 10) : Bool :=
  w.toList.all notSentinel

/-- Data ready: the low byte is 0x01 (R178). -/
def dataReady (low : Byte) : Bool := low == 0x01

/-- `STS_FLAGS`, the named bits 21, 19, 7, 6, 5 and 4 (`10_state.md` R34). -/
def stsFlags : Bits32 :=
  (1 <<< 21) ||| (1 <<< 19) ||| (1 <<< 7) ||| (1 <<< 6) ||| (1 <<< 5) ||| (1 <<< 4)

/-- Any named status flag is set (R179). -/
def anyStatusFlag (status : Bits32) : Bool := status &&& stsFlags != 0

end Sys2Proof.Machine
end

