-- ==== Sys2Proof/Machine/Decoders.lean ====
section
/-! DEFINITION. The record decoders (`43_decode.md` rules R170 to R180). Each is the shared prelude with its gate, its word
count and the record its words give. -/

namespace Sys2Proof.Machine

/-! ## Gates (R170) -/

/-- `VARIANT` is in `RAW_VARIANTS`; NONE is in no gate (R170, R177). -/
def inRawVariants (p : Config.Params) : Variant → Bool
  | .sen50 => p.rawVariants.sen50
  | .sen54 => p.rawVariants.sen54
  | .sen55 => p.rawVariants.sen55
  | .none => false

/-! ## Records -/

/-- The four mass concentrations, which every measured-values shape starts with (R171). -/
def massValues (p : Config.Params) (w : Vector Word 8) : List Bits32 :=
  [convValue p .mc w[0], convValue p .mc w[1], convValue p .mc w[2], convValue p .mc w[3]]

/-- The SEN50 shape (R173): words 4 to 7 are not decoded. -/
def mv50Record (p : Config.Params) (w : Vector Word 8) : Response :=
  { status := .ok, rval := massValues p w, rflag := mvValid w, rword := [w[0], w[1], w[2], w[3]] }

/-- The SEN54 shape (R174): word 7 is not decoded. -/
def mv54Record (p : Config.Params) (w : Vector Word 8) : Response :=
  { status := .ok
    rval := massValues p w ++ [convValue p .rh w[4], convValue p .t w[5], convValue p .voc w[6]]
    rflag := mvValid w
    rword := [w[0], w[1], w[2], w[3], w[4], w[5], w[6]] }

/-- The SEN55 shape (R175). -/
def mv55Record (p : Config.Params) (w : Vector Word 8) : Response :=
  { status := .ok
    rval := massValues p w ++
      [convValue p .rh w[4], convValue p .t w[5], convValue p .voc w[6], convValue p .nox w[7]]
    rflag := mvValid w
    rword := w.toList }

/-- The PM-values record (R176): four mass concentrations, five number concentrations, the typical particle size. -/
def pmRecord (p : Config.Params) (w : Vector Word 10) : Response :=
  { status := .ok
    rval := [convValue p .mc w[0], convValue p .mc w[1], convValue p .mc w[2], convValue p .mc w[3],
      convValue p .nc w[4], convValue p .nc w[5], convValue p .nc w[6], convValue p .nc w[7], convValue p .nc w[8],
      convValue p .tps w[9]]
    rflag := pmValid w
    rword := w.toList }

/-- The raw-values record (R177): no validity flag. -/
def rawRecord (p : Config.Params) (w : Vector Word 4) : Response :=
  { status := .ok
    rval := [convValue p .rrh w[0], convValue p .rt w[1], convValue p .rvoc w[2], convValue p .rnox w[3]]
    rword := w.toList }

/-- The data-ready record (R178): the high byte is ignored. -/
def rdyRecord (w : Vector Word 1) : Response :=
  { status := .ok, rbyte := [lo8 w[0]], rflag := dataReady (lo8 w[0]), rword := w.toList }

/-- The device-status record (R179): the first chunk is bits 31:16. -/
def stsRecord (w : Vector Word 2) : Response :=
  { status := .ok, ru32 := cat32 w[0] w[1], rflag := anyStatusFlag (cat32 w[0] w[1]), rword := w.toList }

/-- The identification string (R180): all 32 bytes in wire order. -/
def strRecord (w : Vector Word 16) : Response :=
  { status := .ok, rbyte := w.toList.flatMap fun x => [hi8 x, lo8 x], rword := w.toList }

/-! ## Operations -/

/-- DEC.MV50 (R173). -/
def execDecMv50 (s : State) : Result :=
  decodeRecord (s.variant == .sen50) 8 (mv50Record Config.params) s

/-- DEC.MV54 (R174). -/
def execDecMv54 (s : State) : Result :=
  decodeRecord (s.variant == .sen54) 8 (mv54Record Config.params) s

/-- DEC.MV55 (R175). -/
def execDecMv55 (s : State) : Result :=
  decodeRecord (s.variant == .sen55) 8 (mv55Record Config.params) s

/-- DEC.PM (R176): no variant gate. -/
def execDecPm (s : State) : Result :=
  decodeRecord true 10 (pmRecord Config.params) s

/-- DEC.RAW with its parameters (R177), gated on `RAW_VARIANTS`. -/
def decRawUnder (p : Config.Params) (s : State) : Result :=
  decodeRecord (inRawVariants p s.variant) 4 (rawRecord p) s

/-- DEC.RAW (R177). -/
def execDecRaw (s : State) : Result :=
  decRawUnder Config.params s

/-- DEC.RDY (R178). -/
def execDecRdy (s : State) : Result :=
  decodeRecord true 1 rdyRecord s

/-- DEC.STS (R179). -/
def execDecSts (s : State) : Result :=
  decodeRecord true 2 stsRecord s

/-- DEC.STR (R180). -/
def execDecStr (s : State) : Result :=
  decodeRecord true 16 strRecord s

end Sys2Proof.Machine
end

