-- ==== Sys2Proof/Machine/Frame.lean ====
section
/-! DEFINITION. The frame operations FRM.ENC and FRM.CHK (`40_crc.md` rules R106, R107). Neither touches `ACC` or
`WBUF`. -/

namespace Sys2Proof.Machine

/-- The operand counts FRM.ENC accepts: even, 2 to `2 * MAX_CHUNKS` (R106). -/
def frmEncLenOk (len : Nat) : Bool :=
  !(len == 0 || len % 2 == 1 || len > 2 * Config.maxChunks)

/-- FRM.ENC (R106). -/
def execFrmEnc (bytes : List Byte) (s : State) : Result :=
  if frmEncLenOk bytes.length then
    .next (respond { status := .ok, rbyte := (wordsOf bytes).flatMap frame, rword := wordsOf bytes } s)
  else .next (raise .invalidArgument s)

/-- FRM.CHK (R107): the computed check byte is reported in both cases, the word only on a match. -/
def execFrmChk (hi lo check : Byte) (s : State) : Result :=
  let c := checkByte hi lo
  if c = check then .next (respond { status := .ok, rword := [cat16 hi lo], rbyte := [c], rflag := true } s)
  else .next (respond { status := .crcMismatch, rbyte := [c], rflag := false } s)

end Sys2Proof.Machine
end

