-- ==== Sys2Proof/Machine/Validator.lean ====
section
/-! DEFINITION. The chunked validator VAL.BUF and the read of its words, WBUF.RD (`41_validator.md` rules R120, R121). -/

namespace Sys2Proof.Machine

/-- The operand counts VAL.BUF accepts: a multiple of 3, 3 to `3 * MAX_CHUNKS` (R120). -/
def valBufLenOk (len : Nat) : Bool :=
  !(len == 0 || len % 3 != 0 || len > 3 * Config.maxChunks)

/-- VAL.BUF (R120): the old commit is gone first and always; then the length; then every chunk, all or nothing. -/
def execValBuf (bytes : List Byte) (s : State) : Result :=
  let s := invalidate s
  if valBufLenOk bytes.length = false then .next (raise .invalidArgument s)
  else if (chunksOf bytes).all chunkOk then
    let words := (chunksOf bytes).map chunkWord
    .next (respond { status := .ok, rword := words, rflag := true } (commit words s))
  else .next (raise .crcMismatch s)

/-- WBUF.RD (R121). -/
def execWbufRd (s : State) : Result :=
  if s.wvalid = false then .next (raise .noData s)
  else respondWithWords s.wcount.toNat (fun w => { status := .ok, rword := w.toList }) s

end Sys2Proof.Machine
end

