-- ==== Sys2Proof/Machine/VariantConfig.lean ====
section
/-! DEFINITION. The variant register's operations (`45_config.md` rules R220, R221). -/

namespace Sys2Proof.Machine

/-- The byte RBYTE reports a variant as (R220, R221). -/
def variantByte (v : Variant) : Byte := v.code.setWidth 8

/-- `VARIANT <- SEL; respond(OK, RBYTE = [SEL])` (R220). -/
def selectVariant (v : Variant) (s : State) : State :=
  respond { status := .ok, rbyte := [variantByte v] } { s with variant := v }

/-- CFG.SEN50 (R220). -/
def execCfgSen50 (s : State) : Result := .next (selectVariant .sen50 s)

/-- CFG.SEN54 (R220). -/
def execCfgSen54 (s : State) : Result := .next (selectVariant .sen54 s)

/-- CFG.SEN55 (R220). -/
def execCfgSen55 (s : State) : Result := .next (selectVariant .sen55 s)

/-- CFG.RDV (R221). -/
def execCfgRdv (s : State) : Result :=
  .next (respond { status := .ok, rbyte := [variantByte s.variant] } s)

end Sys2Proof.Machine
end

