-- ==== Sys2Proof/Machine/Dispatch.lean ====
section
/-! DEFINITION. The meaning of every operation: one arm per constructor of `Instr`, each one call. -/

namespace Sys2Proof.Machine

def exec (i : Instr) (s : State) : Host.Outcome State Fault Refusal :=
  match i with
  | .crcInit => Sys2Proof.Machine.execCrcInit s
  | .crcFeed bytes => Sys2Proof.Machine.execCrcFeed bytes s
  | .crcBuf bytes => Sys2Proof.Machine.execCrcBuf bytes s
  | .frmEnc bytes => Sys2Proof.Machine.execFrmEnc bytes s
  | .frmChk hi lo check => Sys2Proof.Machine.execFrmChk hi lo check s
  | .valBuf bytes => Sys2Proof.Machine.execValBuf bytes s
  | .wbufRd => Sys2Proof.Machine.execWbufRd s
  | .cvtMc raw => Sys2Proof.Machine.execCvtMc raw s
  | .cvtNc raw => Sys2Proof.Machine.execCvtNc raw s
  | .cvtTps raw => Sys2Proof.Machine.execCvtTps raw s
  | .cvtRh raw => Sys2Proof.Machine.execCvtRh raw s
  | .cvtT raw => Sys2Proof.Machine.execCvtT raw s
  | .cvtVoc raw => Sys2Proof.Machine.execCvtVoc raw s
  | .cvtNox raw => Sys2Proof.Machine.execCvtNox raw s
  | .cvtRvoc raw => Sys2Proof.Machine.execCvtRvoc raw s
  | .cvtRnox raw => Sys2Proof.Machine.execCvtRnox raw s
  | .cvtRrh raw => Sys2Proof.Machine.execCvtRrh raw s
  | .cvtRt raw => Sys2Proof.Machine.execCvtRt raw s
  | .decMv50 => Sys2Proof.Machine.execDecMv50 s
  | .decMv54 => Sys2Proof.Machine.execDecMv54 s
  | .decMv55 => Sys2Proof.Machine.execDecMv55 s
  | .decPm => Sys2Proof.Machine.execDecPm s
  | .decRaw => Sys2Proof.Machine.execDecRaw s
  | .decRdy => Sys2Proof.Machine.execDecRdy s
  | .decSts => Sys2Proof.Machine.execDecSts s
  | .decStr => Sys2Proof.Machine.execDecStr s
  | .decCmp => Sys2Proof.Machine.execDecCmp s
  | .cmpEnc x0 x1 x2 => Sys2Proof.Machine.execCmpEnc x0 x1 x2 s
  | .cfgSen50 => Sys2Proof.Machine.execCfgSen50 s
  | .cfgSen54 => Sys2Proof.Machine.execCfgSen54 s
  | .cfgSen55 => Sys2Proof.Machine.execCfgSen55 s
  | .cfgRdv => Sys2Proof.Machine.execCfgRdv s

end Sys2Proof.Machine
end

