-- ==== Sys2Proof/Machine/Present.lean ====
section
/-! DEFINITION. What an input from outside does to the block: the host presents an operation (`00_scope.md` rule R12), or
asserts reset (`70_reset_and_hazards.md` rule R270). It is what fetching is on a machine that fetches. -/

namespace Sys2Proof.Machine

/-- An operation presented to the block. A second host, and an operand list that has not `LEN` bytes, are refused
(`60_exceptions.md` R253). A reserved descriptor raises `ILLEGAL_OP` before anything else (R244). The order of the refusals before
`ILLEGAL_OP` is DEDUCED, safe (log 6). -/
def present (issuer : Issuer) (desc : Word) (din : List Byte) (s : State) : Result :=
  match issuer with
  | .secondHost => .refused .secondHost
  | .host =>
    match decode desc din with
    | .ok i => exec i s
    | .error .operandCount => .refused .operandCount
    | .error .reservedOp => .next (illegalOp s)
    | .error .reservedSel => .next (illegalOp s)
    | .error .reservedLen => .next (illegalOp s)

/-- Reset: every piece of the block's state takes its reset value; what the host presents after it stands (R270, log 9). -/
def assertReset (s : State) : State :=
  { State.reset with inputs := s.inputs }

/-- One input taken by the block. -/
def takeInput (input : Input) (s : State) : Result :=
  match input with
  | .reset => .next (assertReset s)
  | .operation issuer desc din => present issuer desc din s

/-- The operation of a table word, put before everything else the host presents (log 11). -/
def presentFirst (desc : Word) (din : List Byte) (s : State) : State :=
  { s with inputs := .operation .host desc din :: s.inputs }

end Sys2Proof.Machine
end

