-- ==== Sys2Proof/Machine/Step.lean ====
section
/-! DEFINITION. One step of the machine: the block takes the oldest input, or waits when there is none. Each operation is
one atomic step (`20_memory.md` rules R57, R58; `70_reset_and_hazards.md` rule R290). -/

namespace Sys2Proof.Machine

/-- The block takes the oldest input. With none it waits and nothing changes (`70_reset_and_hazards.md` R271,
`60_exceptions.md` R246; DEDUCED, safe; log 2). -/
def step (s : State) : Host.Outcome State Fault Refusal :=
  match s.inputs with
  | [] => .next s
  | input :: rest => Sys2Proof.Machine.takeInput input { s with inputs := rest }

/-- `s` with the operation of a table word presented next (log 11). -/
def State.withFetchWord (s : State) (nbits w : Nat) : State :=
  Sys2Proof.Machine.presentFirst (tableOperation nbits w).1 (tableOperation nbits w).2 s

end Sys2Proof.Machine
end

