-- ==== Sys2Proof/Machine/Assembler.lean ====
section
/-! DEFINITION. The assembler of `30_encoding.md` rules R80 and R81: from a mnemonic and its byte operands to the pair
`(DESC, DIN)`, and the pseudo-instructions, each of which expands to one operation. The block never sees this text: it is
the notation of the spec's programs. -/

namespace Sys2Proof.Machine

/-- The mnemonic of each operation, as `spec/opcode_table.json` spells it. -/
def mnemonic : Instr → String
  | .crcInit => "CRC.INIT"
  | .crcFeed _ => "CRC.FEED"
  | .crcBuf _ => "CRC.BUF"
  | .frmEnc _ => "FRM.ENC"
  | .frmChk _ _ _ => "FRM.CHK"
  | .valBuf _ => "VAL.BUF"
  | .wbufRd => "WBUF.RD"
  | .cvtMc _ => "CVT.MC"
  | .cvtNc _ => "CVT.NC"
  | .cvtTps _ => "CVT.TPS"
  | .cvtRh _ => "CVT.RH"
  | .cvtT _ => "CVT.T"
  | .cvtVoc _ => "CVT.VOC"
  | .cvtNox _ => "CVT.NOX"
  | .cvtRvoc _ => "CVT.RVOC"
  | .cvtRnox _ => "CVT.RNOX"
  | .cvtRrh _ => "CVT.RRH"
  | .cvtRt _ => "CVT.RT"
  | .decMv50 => "DEC.MV50"
  | .decMv54 => "DEC.MV54"
  | .decMv55 => "DEC.MV55"
  | .decPm => "DEC.PM"
  | .decRaw => "DEC.RAW"
  | .decRdy => "DEC.RDY"
  | .decSts => "DEC.STS"
  | .decStr => "DEC.STR"
  | .decCmp => "DEC.CMP"
  | .cmpEnc _ _ _ => "CMP.ENC"
  | .cfgSen50 => "CFG.SEN50"
  | .cfgSen54 => "CFG.SEN54"
  | .cfgSen55 => "CFG.SEN55"
  | .cfgRdv => "CFG.RDV"

/-- The descriptor's high byte and the fixed operand count of each form of R80; no count where the assembler sets `LEN` from the
operands. -/
def assemblyForms : List (String × BitVec 8 × Option Nat) :=
  [("CRC.INIT", 0x10, some 0), ("CRC.FEED", 0x20, none), ("CRC.BUF", 0x30, none), ("FRM.ENC", 0x40, none),
   ("FRM.CHK", 0x50, some 3), ("VAL.BUF", 0x60, none), ("WBUF.RD", 0x70, some 0)] ++
  [("CVT.MC", 0x80, some 2), ("CVT.NC", 0x81, some 2), ("CVT.TPS", 0x82, some 2), ("CVT.RH", 0x83, some 2),
   ("CVT.T", 0x84, some 2), ("CVT.VOC", 0x85, some 2), ("CVT.NOX", 0x86, some 2), ("CVT.RVOC", 0x87, some 2),
   ("CVT.RNOX", 0x88, some 2), ("CVT.RRH", 0x89, some 2), ("CVT.RT", 0x8A, some 2)] ++
  [("DEC.MV50", 0x90, some 0), ("DEC.MV54", 0x91, some 0), ("DEC.MV55", 0x92, some 0), ("DEC.PM", 0x93, some 0),
   ("DEC.RAW", 0x94, some 0), ("DEC.RDY", 0x95, some 0), ("DEC.STS", 0x96, some 0), ("DEC.STR", 0x97, some 0),
   ("DEC.CMP", 0x98, some 0)] ++
  [("CMP.ENC", 0xA0, some 12), ("CFG.SEN50", 0xB0, some 0), ("CFG.SEN54", 0xB1, some 0), ("CFG.SEN55", 0xB2, some 0),
   ("CFG.RDV", 0xC0, some 0)]

/-- One line of assembly to its operation (R80): `LEN` is the operand count. None where no form has the mnemonic or the
operand count does not fit. -/
def assemble (name : String) (operands : List Byte) : Option (Word × List Byte) :=
  match assemblyForms.find? (fun form => form.1 == name) with
  | none => none
  | some (_, high, count) =>
    if operands.length ≤ 255 ∧ (count = none ∨ count = some operands.length) then
      some (high ++ BitVec.ofNat 8 operands.length, operands)
    else none

/-- The CVT operation of a field kind (R74). -/
def cvtOf (k : Kind) (raw : Word) : Instr :=
  match k with
  | .mc => .cvtMc raw
  | .nc => .cvtNc raw
  | .tps => .cvtTps raw
  | .rh => .cvtRh raw
  | .t => .cvtT raw
  | .voc => .cvtVoc raw
  | .nox => .cvtNox raw
  | .rvoc => .cvtRvoc raw
  | .rnox => .cvtRnox raw
  | .rrh => .cvtRrh raw
  | .rt => .cvtRt raw

/-- The pseudo-instructions of R81. A decimal real is an exact quotient (log 15). -/
inductive Pseudo
  | crc8 (bytes : List Byte)
  | framew (words : List Word)
  | cvt (k : Kind) (w : Word)
  | cmpEnc (f0 f1 f2 : Frac)
  | cfg (v : Variant)
  deriving DecidableEq, Repr

/-- The one operation each pseudo-instruction expands to (R81); `CFG` takes SEN50, SEN54 or SEN55 only. -/
def expand : Pseudo → Option Instr
  | .crc8 bytes => some (.crcBuf bytes)
  | .framew words => some (.frmEnc (words.flatMap fun w => [hi8 w, lo8 w]))
  | .cvt k w => some (cvtOf k w)
  | .cmpEnc f0 f1 f2 => some (.cmpEnc (rne32 f0) (rne32 f1) (rne32 f2))
  | .cfg .sen50 => some .cfgSen50
  | .cfg .sen54 => some .cfgSen54
  | .cfg .sen55 => some .cfgSen55
  | .cfg .none => none

end Sys2Proof.Machine
end

