-- ==== Sys2Proof/Safety.lean ====
section
/-! DEFINITION. What a safe run is, in the terms claims use: the invariant of the block's registers, the host's duties, and a
step that does not stop. -/

namespace Sys2Proof.Safety

open Sys2Proof.Machine

/-- `10_state.md` rule R27: without a commit nothing is held; with one, exactly the entries below `WCOUNT` are words. -/
abbrev CommitOk (s : State) : Prop :=
  (s.wvalid = false → s.wcount = 0 ∧ ∀ j : Fin 16, s.wbuf[j] = none) ∧
  (s.wvalid = true → 1 ≤ s.wcount.toNat ∧ s.wcount.toNat ≤ 16 ∧
    ∀ j : Fin 16, (s.wbuf[j]).isSome = true ↔ j.val < s.wcount.toNat)

/-- `10_state.md` rules R31 and R33: `STATUS` is never 6 or 7, and the list latches keep their sizes. -/
abbrev LatchesOk (s : State) : Prop :=
  s.status.toNat ≤ 5 ∧ s.rbyte.length ≤ 48 ∧ s.rword.length ≤ 16 ∧ s.rval.length ≤ 10

/-- The invariant of the block: what every operation and reset keep. -/
abbrev BlockInv (s : State) : Prop := CommitOk s ∧ LatchesOk s

/-- An input that keeps the host's duties: it comes from the one host, and its operand list has `LEN` bytes
(`70_reset_and_hazards.md` rules R284, R285). Reset keeps them too. -/
def dutiful : Input → Bool
  | .reset => true
  | .operation .host desc din => din.length == (lenField desc).toNat
  | .operation .secondHost _ _ => false

/-- Everything the host still presents keeps its duties. -/
abbrev HostDutiful (s : State) : Prop := s.inputs.all dutiful = true

/-- The step ends in a next state: no fault and no refusal. -/
def StepGoesOn (s : State) : Prop := ∃ t, step s = .next t

end Sys2Proof.Safety
end

