-- ==== Sys2Proof/Certificates/Slice0/Obligations.lean ====
section
/-! DEFINITION. The statements for the provers, from the numbered rules of `spec/`. The vocabulary of `Sys2Proof.Claims` is
written again from the spec, apart from the meanings, so that a statement does not repeat a definition. -/

namespace Sys2Proof.Claims

open Sys2Proof.Machine

/-! ## Descriptors -/

/-- `OP`, `SEL`, `LEN` of a descriptor as numbers (`30_encoding.md` R71). -/
abbrev fields (desc : Word) : Nat × Nat × Nat :=
  (desc.toNat / 4096, desc.toNat / 256 % 16, desc.toNat % 256)

/-- The reserved descriptors, as `30_encoding.md` R79 lists them with the tables of R73 to R77. -/
abbrev reservedFields (op sel len : Nat) : Prop :=
  op ∈ [0x0, 0xD, 0xE, 0xF] ∨
  (op ∈ [0x1, 0x2, 0x3, 0x4, 0x5, 0x6, 0x7, 0xA, 0xC] ∧ sel ≠ 0) ∨
  (op = 0x8 ∧ 10 < sel) ∨ (op = 0x9 ∧ 8 < sel) ∨ (op = 0xB ∧ 2 < sel) ∨
  (op ∈ [0x1, 0x7, 0x9, 0xB, 0xC] ∧ len ≠ 0) ∨
  (op = 0x5 ∧ len ≠ 3) ∨ (op = 0x8 ∧ len ≠ 2) ∨ (op = 0xA ∧ len ≠ 12)

/-- A descriptor is reserved by its three fields. -/
abbrev reserved (desc : Word) : Prop :=
  reservedFields (fields desc).1 (fields desc).2.1 (fields desc).2.2

/-- The line of `30_encoding.md` R78 an operation stands on: `OP`, `SEL`, and `LEN` where it is fixed. -/
def opcodeLine : Instr → Nat × Nat × Option Nat
  | .crcInit => (0x1, 0, some 0)
  | .crcFeed _ => (0x2, 0, none)
  | .crcBuf _ => (0x3, 0, none)
  | .frmEnc _ => (0x4, 0, none)
  | .frmChk _ _ _ => (0x5, 0, some 3)
  | .valBuf _ => (0x6, 0, none)
  | .wbufRd => (0x7, 0, some 0)
  | .cvtMc _ => (0x8, 0, some 2)
  | .cvtNc _ => (0x8, 1, some 2)
  | .cvtTps _ => (0x8, 2, some 2)
  | .cvtRh _ => (0x8, 3, some 2)
  | .cvtT _ => (0x8, 4, some 2)
  | .cvtVoc _ => (0x8, 5, some 2)
  | .cvtNox _ => (0x8, 6, some 2)
  | .cvtRvoc _ => (0x8, 7, some 2)
  | .cvtRnox _ => (0x8, 8, some 2)
  | .cvtRrh _ => (0x8, 9, some 2)
  | .cvtRt _ => (0x8, 10, some 2)
  | .decMv50 => (0x9, 0, some 0)
  | .decMv54 => (0x9, 1, some 0)
  | .decMv55 => (0x9, 2, some 0)
  | .decPm => (0x9, 3, some 0)
  | .decRaw => (0x9, 4, some 0)
  | .decRdy => (0x9, 5, some 0)
  | .decSts => (0x9, 6, some 0)
  | .decStr => (0x9, 7, some 0)
  | .decCmp => (0x9, 8, some 0)
  | .cmpEnc _ _ _ => (0xA, 0, some 12)
  | .cfgSen50 => (0xB, 0, some 0)
  | .cfgSen54 => (0xB, 1, some 0)
  | .cfgSen55 => (0xB, 2, some 0)
  | .cfgRdv => (0xC, 0, some 0)

/-! ## Latches -/

/-- The same registers with a raised code: `STATUS` holds it and every other latch is cleared (`10_state.md` R32). -/
def raised (s : State) (code : BitVec 3) : State :=
  { s with status := code, rbyte := [], rword := [], rval := [], rflag := false, ru32 := 0 }

/-- Nothing but `STATUS` reports anything (`10_state.md` R32). -/
abbrev reportsNothing (s : State) : Prop :=
  s.rbyte = [] ∧ s.rword = [] ∧ s.rval = [] ∧ s.rflag = false ∧ s.ru32 = 0

/-! ## CRC and frames -/

/-- The polynomial over GF(2) of a byte's bits, bit `k` the coefficient of `X^k`. -/
noncomputable def poly (b : Byte) : Polynomial (ZMod 2) :=
  ∑ k : Fin 8, if b.getLsbD k then Polynomial.X ^ k.val else 0

/-- The check byte of a word's two bytes, from the steps of `40_crc.md` R101. -/
abbrev check (hi lo : Byte) : Byte := crcStep (crcStep 0xFF hi) lo

/-- The 3-byte chunk of a word (`40_crc.md` R102). -/
def framed (w : Word) : List Byte :=
  [w.extractLsb' 8 8, w.extractLsb' 0 8, check (w.extractLsb' 8 8) (w.extractLsb' 0 8)]

/-- Chunk `j` of a buffer is `(hi, lo, c)` (`20_memory.md` R56). -/
abbrev chunkAt (bytes : List Byte) (j : Nat) (hi lo c : Byte) : Prop :=
  bytes[3 * j]? = some hi ∧ bytes[3 * j + 1]? = some lo ∧ bytes[3 * j + 2]? = some c

/-- The lengths `41_validator.md` R120 accepts. -/
abbrev validLength (n : Nat) : Prop := n ≠ 0 ∧ n % 3 = 0 ∧ n ≤ 48

/-- The counts `40_crc.md` R106 accepts. -/
abbrev payloadLength (n : Nat) : Prop := n ≠ 0 ∧ n % 2 = 0 ∧ n ≤ 32

/-- An entry below `n` that is no word (`10_state.md` R26). -/
def missingEntry (s : State) (n : Nat) : Prop := ∃ j < n, ∀ w, s.wbuf[j]? ≠ some (some w)

/-- The first `n` entries of the buffer are the words `w`. -/
abbrev holds {n : Nat} (s : State) (w : Vector Word n) : Prop := ∀ j : Fin n, s.wbuf[j.val]? = some (some w[j])

/-! ## Numbers -/

/-- A finite binary32 pattern (`00_scope.md` R11). -/
abbrev finite (p : Bits32) : Prop := p.toNat / 2 ^ 23 % 256 ≠ 255

/-- The rational value of a finite binary32 pattern, from IEEE 754's own formula (`00_scope.md` R11). -/
def value (p : Bits32) : ℚ :=
  (if p.getLsbD 31 then -1 else 1) *
    (if p.toNat / 2 ^ 23 % 256 = 0 then ((p.toNat % 2 ^ 23 : ℕ) : ℚ) * (2 : ℚ) ^ (-149 : ℤ)
     else ((2 ^ 23 + p.toNat % 2 ^ 23 : ℕ) : ℚ) * (2 : ℚ) ^ (((p.toNat / 2 ^ 23 % 256 : ℕ) : ℤ) - 150))

/-- `n` is `q` rounded to an integer under the tie rule (`00_scope.md` R10). -/
def rounds (mode : Config.Rounding) (q : ℚ) (n : ℤ) : Prop :=
  |q - n| < 1 / 2 ∨
    (|q - n| = 1 / 2 ∧ match mode with
      | .halfAway => |q| < |(n : ℚ)|
      | .halfEven => n % 2 = 0)

/-- `n` is `q` rounded toward zero (`00_scope.md` R10). -/
def truncates (q : ℚ) (n : ℤ) : Prop := |(n : ℚ)| ≤ |q| ∧ |q| < |(n : ℚ)| + 1 ∧ 0 ≤ (n : ℚ) * q

/-- The engineering value of a raw with a row of `42_convert.md` R140: `NAN_BITS` on the sentinel, else the exact quotient
rounded once. -/
def readingUnder (p : Config.Params) (signed : Bool) (divisor : Nat) (sentinel raw : Word) : Bits32 :=
  if raw = sentinel then nanBits p.nan
  else rne32 ⟨if signed then raw.toInt else raw.toNat, divisor⟩

/-- The engineering value under the machine's own parameters. -/
abbrev reading (signed : Bool) (divisor : Nat) (sentinel raw : Word) : Bits32 :=
  readingUnder Config.params signed divisor sentinel raw

/-- The state after a conversion (`42_convert.md` section 2). -/
def converted (s : State) (signed : Bool) (divisor : Nat) (sentinel raw : Word) : State :=
  { s with
    status := 0, rbyte := [], rword := [raw], rval := [reading signed divisor sentinel raw]
    rflag := decide (raw ≠ sentinel), ru32 := 0 }

/-- None of the four mass-concentration raws is its sentinel (`43_decode.md` R172). -/
def massOk (w : Vector Word 8) : Bool :=
  decide (w[0] ≠ 0xFFFF ∧ w[1] ≠ 0xFFFF ∧ w[2] ≠ 0xFFFF ∧ w[3] ≠ 0xFFFF)

/-! ## Groups of operations -/

/-- A record decoder's three errors in the order of `60_exceptions.md` R244, and the state after it on words that are
there. -/
def recordRule (run : State → Result) (gate : Variant → Bool) (n : Nat) (done : State → Vector Word n → State) : Prop :=
  ∀ s : State,
    (gate s.variant = false → run s = .next (raised s 3)) ∧
    (gate s.variant = true → s.wvalid = false → run s = .next (raised s 4)) ∧
    (gate s.variant = true → s.wvalid = true → s.wcount.toNat ≠ n → run s = .next (raised s 2)) ∧
    (gate s.variant = true → s.wvalid = true → s.wcount.toNat = n → ∀ w, holds s w → run s = .next (done s w))

/-- A decoder's whole rule: its descriptor, and what `exec` answers. -/
def decoderRule (desc : Word) (i : Instr) (gate : Variant → Bool) (n : Nat) (done : State → Vector Word n → State) : Prop :=
  decode desc [] = .ok i ∧ recordRule (exec i) gate n done

/-- Membership in a choice of `RAW_VARIANTS` (`00_scope.md` R6); NONE is in none. -/
def rawGateUnder (p : Config.Params) : Variant → Bool
  | .sen50 => p.rawVariants.sen50
  | .sen54 => p.rawVariants.sen54
  | .sen55 => p.rawVariants.sen55
  | .none => false

/-- Membership in the machine's own `RAW_VARIANTS`. -/
abbrev rawGate : Variant → Bool := rawGateUnder Config.params

/-- The state after the raw-values record (`43_decode.md` R177). -/
def rawDecoded (p : Config.Params) (s : State) (w : Vector Word 4) : State :=
  { s with
    status := 0, rbyte := []
    rval := [readingUnder p true 100 0x7FFF w[0], readingUnder p true 200 0x7FFF w[1],
      readingUnder p false 1 0xFFFF w[2], readingUnder p false 1 0xFFFF w[3]]
    rword := w.toList, rflag := false, ru32 := 0 }

/-- The decoders with their gates and word counts (`43_decode.md` R173 to R180, `44_compensation.md` R203). -/
def decoders : List (Instr × (Variant → Bool) × Nat) :=
  [(.decMv50, fun v => v = .sen50, 8), (.decMv54, fun v => v = .sen54, 8), (.decMv55, fun v => v = .sen55, 8),
   (.decPm, fun _ => true, 10), (.decRaw, rawGate, 4), (.decRdy, fun _ => true, 1), (.decSts, fun _ => true, 2),
   (.decStr, fun _ => true, 16), (.decCmp, fun _ => true, 3)]

/-- CRC.INIT, CRC.FEED, CRC.BUF: the operations of the accumulator unit (`10_state.md` R22). -/
def usesAcc (i : Instr) : Prop := i = .crcInit ∨ (∃ bytes, i = .crcFeed bytes) ∨ ∃ bytes, i = .crcBuf bytes

/-- CFG.SEN50, CFG.SEN54, CFG.SEN55: the operations that write `VARIANT` (`10_state.md` R23). -/
def selects (i : Instr) : Prop := i = .cfgSen50 ∨ i = .cfgSen54 ∨ i = .cfgSen55

/-- WBUF.RD, every CVT, every DEC and CFG.RDV (`20_memory.md` R57). -/
def readsOnly (i : Instr) : Prop :=
  i = .wbufRd ∨ i = .cfgRdv ∨ (∃ k raw, i = cvtOf k raw) ∨ ∃ d ∈ decoders, i = d.1

/-- The codes an operation may end with (`60_exceptions.md` R240, R242). -/
def mayEndWith : Instr → List (BitVec 3)
  | .crcInit | .crcFeed _ | .crcBuf _ => [0]
  | .frmEnc _ => [0, 2]
  | .frmChk _ _ _ => [0, 1]
  | .valBuf _ => [0, 1, 2]
  | .wbufRd => [0, 4]
  | .cvtMc _ | .cvtNc _ | .cvtTps _ | .cvtRh _ | .cvtT _ | .cvtVoc _ | .cvtNox _ => [0]
  | .cvtRvoc _ | .cvtRnox _ | .cvtRrh _ | .cvtRt _ => [0]
  | .decMv50 | .decMv54 | .decMv55 | .decRaw => [0, 2, 3, 4]
  | .decPm | .decRdy | .decSts | .decStr | .decCmp => [0, 2, 4]
  | .cmpEnc _ _ _ => [0, 2]
  | .cfgSen50 | .cfgSen54 | .cfgSen55 | .cfgRdv => [0]

/-- Two states that agree on every register an operation may read, and on what the host presents; their latches may differ in
any way. -/
abbrev sameRegisters (s s' : State) : Prop :=
  s.acc = s'.acc ∧ s.variant = s'.variant ∧ s.wvalid = s'.wvalid ∧ s.wcount = s'.wcount ∧ s.wbuf = s'.wbuf ∧
    s.inputs = s'.inputs

end Sys2Proof.Claims

open Sys2Proof Sys2Proof.Machine Sys2Proof.Safety Sys2Proof.Claims

/-- `10_state.md` R36, every row. -/
def Obligations.ResetGivesTheSpecValues : Prop :=
  State.reset.acc = 0xFF ∧ State.reset.variant = .none ∧ Variant.code .none = 3 ∧ State.reset.wvalid = false ∧
  State.reset.wcount = 0 ∧ (∀ j : Fin 16, State.reset.wbuf[j] = none) ∧ State.reset.status = 0 ∧
  State.reset.rbyte = [] ∧ State.reset.rword = [] ∧ State.reset.rval = [] ∧ State.reset.rflag = false ∧
  State.reset.ru32 = 0

/-- `70_reset_and_hazards.md` R270. That the inputs after the reset stand is the model's choice (log 9). -/
def Obligations.ResetInputRestoresEveryRegister : Prop :=
  ∀ (s : State) (rest : List Input), s.inputs = .reset :: rest →
    step s = .next
      { acc := 0xFF, variant := .none, wvalid := false, wcount := 0, wbuf := Vector.replicate 16 none, status := 0
        rbyte := [], rword := [], rval := [], rflag := false, ru32 := 0, inputs := rest }

/-- `00_scope.md` R12, `20_memory.md` R58. The list of inputs is the model's own (log 1). -/
def Obligations.StepRunsThePresentedOperation : Prop :=
  ∀ (s : State) (desc : Word) (din : List Byte) (rest : List Input) (i : Instr),
    s.inputs = .operation .host desc din :: rest → decode desc din = .ok i →
      step s = exec i { s with inputs := rest }

/-- `00_scope.md` R12. How an operation is placed is the model's choice (log 11). -/
def Obligations.TableWordIsRunByTheNextStep : Prop :=
  ∀ (s : State) (nbits w : Nat) (i : Instr), decodeTableWord nbits w = some i →
    step (s.withFetchWord nbits w) = exec i s

/-- `30_encoding.md` R79. -/
def Obligations.ReservedDescriptorRaisesIllegalOp : Prop :=
  ∀ (s : State) (desc : Word) (din : List Byte) (rest : List Input),
    reserved desc → din.length = (fields desc).2.2 → s.inputs = .operation .host desc din :: rest →
      step s = .next (raised { s with inputs := rest } 5)

/-- `30_encoding.md` R78: one line per operation, otherwise ILLEGAL. -/
def Obligations.DecodeFollowsTheOpcodeMap : Prop :=
  ∀ (desc : Word) (din : List Byte), din.length = (fields desc).2.2 →
    ((∃ i, decode desc din = .ok i) ↔ ¬ reserved desc) ∧
    ∀ i, decode desc din = .ok i →
      (opcodeLine i).1 = (fields desc).1 ∧ (opcodeLine i).2.1 = (fields desc).2.1 ∧
      ∀ n, (opcodeLine i).2.2 = some n → (fields desc).2.2 = n

/-- No bit of an operand is lost between `encode` and `decode` (`30_encoding.md` R70 to R78). -/
def Obligations.DecodeOfEncodeIsIdentity : Prop :=
  ∀ i : Instr, i.wf = true → decode (encode i).1 (encode i).2 = .ok i

/-- Each pair has one meaning and each meaning one pair (`30_encoding.md` R70 to R78). -/
def Obligations.EncodeOfDecodeIsIdentity : Prop :=
  ∀ (desc : Word) (din : List Byte) (i : Instr), decode desc din = .ok i → i.wf = true ∧ encode i = (desc, din)

/-- Words from `30_encoding.md` R73 to R76 and the programs of `95_test_vectors.md` section 3. -/
def Obligations.SampleDescriptorsDecode : Prop :=
  decode 0x1000 [] = .ok .crcInit ∧ decode 0x2001 [0xBE] = .ok (.crcFeed [0xBE]) ∧
  decode 0x5003 [0x00, 0x64, 0xFE] = .ok (.frmChk 0x00 0x64 0xFE) ∧
  decode 0x6003 [0x00, 0x01, 0xB0] = .ok (.valBuf [0x00, 0x01, 0xB0]) ∧
  decode 0x8302 [0x13, 0x88] = .ok (.cvtRh 0x1388) ∧ decode 0x9500 [] = .ok .decRdy ∧
  decode 0xA00C [0x3F, 0xC0, 0x00, 0x00, 0x3C, 0x49, 0x85, 0xF0, 0x44, 0x16, 0x2C, 0xCD] =
    .ok (.cmpEnc 0x3FC00000 0x3C4985F0 0x44162CCD) ∧
  decode 0xB200 [] = .ok .cfgSen55 ∧ decode 0xC000 [] = .ok .cfgRdv

/-- `70_reset_and_hazards.md` R284. That the refusal holds whatever the descriptor, so before the ILLEGAL_OP of R244 for a reserved
one, is the model's choice (DEDUCED; log 6). -/
def Obligations.WrongOperandCountIsRefused : Prop :=
  ∀ (s : State) (desc : Word) (din : List Byte) (rest : List Input),
    s.inputs = .operation .host desc din :: rest → din.length ≠ (fields desc).2.2 → step s = .refused .operandCount

/-- `20_memory.md` R59. -/
def Obligations.SecondHostIsRefused : Prop :=
  ∀ (s : State) (desc : Word) (din : List Byte) (rest : List Input),
    s.inputs = .operation .secondHost desc din :: rest → step s = .refused .secondHost

/-- `70_reset_and_hazards.md` R271 says the block waits; that a wait is a step that changes nothing is the model's choice (log 2). -/
def Obligations.WaitingBlockKeepsItsState : Prop :=
  ∀ s : State, s.inputs = [] → step s = .next s

/-- `40_crc.md` R103. -/
def Obligations.CrcInitSetsTheSeed : Prop :=
  decode 0x1000 [] = .ok .crcInit ∧
  ∀ s : State, exec .crcInit s = .next
    { s with acc := 0xFF, status := 0, rbyte := [0xFF], rword := [], rval := [], rflag := false, ru32 := 0 }

/-- `40_crc.md` R104. -/
def Obligations.CrcFeedStepsTheAccumulator : Prop :=
  (∀ bytes : List Byte, bytes.length ≤ 255 →
    decode (BitVec.ofNat 16 (0x2000 + bytes.length)) bytes = .ok (.crcFeed bytes)) ∧
  ∀ (s : State) (bytes : List Byte), exec (.crcFeed bytes) s = .next
    { s with
      acc := bytes.foldl crcStep s.acc, status := 0, rbyte := [bytes.foldl crcStep s.acc], rword := [], rval := []
      rflag := false, ru32 := 0 }

/-- `40_crc.md` R105 with `crc8` of R101. -/
def Obligations.CrcBufComputesTheWholeBuffer : Prop :=
  (∀ bytes : List Byte, bytes.length ≤ 255 →
    decode (BitVec.ofNat 16 (0x3000 + bytes.length)) bytes = .ok (.crcBuf bytes)) ∧
  ∀ (s : State) (bytes : List Byte), exec (.crcBuf bytes) s = .next
    { s with
      acc := bytes.foldl crcStep 0xFF, status := 0, rbyte := [bytes.foldl crcStep 0xFF], rword := [], rval := []
      rflag := false, ru32 := 0 }

/-- `40_crc.md` R100: the polynomial 0x31 is x^8 + x^5 + x^4 + 1 with the x^8 term implicit, MSB first. -/
def Obligations.CrcStepIsPolynomialRemainder : Prop :=
  ∀ acc b : Byte,
    (Polynomial.X ^ 8 + Polynomial.X ^ 5 + Polynomial.X ^ 4 + 1 : Polynomial (ZMod 2)) ∣
      poly (crcStep acc b) - Polynomial.X ^ 8 * poly (acc ^^^ b)

/-- `40_crc.md` R104, corner cases. -/
def Obligations.CrcFeedSplits : Prop :=
  ∀ (s : State) (l m : List Byte), ∃ t u,
    exec (.crcFeed l) s = .next t ∧ exec (.crcFeed m) t = .next u ∧ exec (.crcFeed (l ++ m)) s = .next u

/-- `40_crc.md` R108 item 2, with its converse. -/
def Obligations.OnlyTheCheckByteClosesTheCrc : Prop :=
  ∀ (s : State) (l : List Byte), ∃ t c, exec (.crcBuf l) s = .next t ∧ t.rbyte = [c] ∧
    ∀ d : Byte, ∃ u, exec (.crcBuf (l ++ [d])) s = .next u ∧ (u.acc = 0 ↔ d = c)

/-- `40_crc.md` R109. -/
def Obligations.TableDrivenCrcIsEquivalent : Prop :=
  ∀ (acc : Byte) (bytes : List Byte), bytes.foldlM crcTableStep acc = some (bytes.foldl crcStep acc)

/-- `40_crc.md` R108 item 5. -/
def Obligations.SingleBitErrorFailsItsCheck : Prop :=
  ∀ (s : State) (hi lo : Byte) (bit : Fin 24),
    let sent : BitVec 24 := hi ++ lo ++ check hi lo
    let got : BitVec 24 := sent ^^^ ((1 : BitVec 24) <<< bit.val)
    ∃ t, exec (.frmChk (got.extractLsb' 16 8) (got.extractLsb' 8 8) (got.extractLsb' 0 8)) s = .next t ∧
      t.status = 1 ∧ t.rword = [] ∧ t.rflag = false

/-- `40_crc.md` R106. -/
def Obligations.FrmEncFramesEveryWord : Prop :=
  (∀ bytes : List Byte, bytes.length ≤ 255 →
    decode (BitVec.ofNat 16 (0x4000 + bytes.length)) bytes = .ok (.frmEnc bytes)) ∧
  ∀ (s : State) (bytes : List Byte),
    (¬ payloadLength bytes.length → exec (.frmEnc bytes) s = .next (raised s 2)) ∧
    (payloadLength bytes.length → ∃ (out : List Byte) (words : List Word),
      exec (.frmEnc bytes) s = .next
        { s with status := 0, rbyte := out, rword := words, rval := [], rflag := false, ru32 := 0 } ∧
      words.length = bytes.length / 2 ∧ out.length = 3 * (bytes.length / 2) ∧
      ∀ (j : Nat) (hi lo : Byte), bytes[2 * j]? = some hi → bytes[2 * j + 1]? = some lo →
        words[j]? = some (hi ++ lo) ∧ chunkAt out j hi lo (check hi lo))

/-- `40_crc.md` R107. -/
def Obligations.FrmChkChecksOneChunk : Prop :=
  ∀ (s : State) (hi lo c : Byte),
    decode 0x5003 [hi, lo, c] = .ok (.frmChk hi lo c) ∧
    (check hi lo = c → exec (.frmChk hi lo c) s = .next
      { s with status := 0, rbyte := [c], rword := [hi ++ lo], rval := [], rflag := true, ru32 := 0 }) ∧
    (check hi lo ≠ c → exec (.frmChk hi lo c) s = .next
      { s with status := 1, rbyte := [check hi lo], rword := [], rval := [], rflag := false, ru32 := 0 })

/-- `41_validator.md` R120. -/
def Obligations.ValBufCommitsAllOrNothing : Prop :=
  (∀ bytes : List Byte, bytes.length ≤ 255 →
    decode (BitVec.ofNat 16 (0x6000 + bytes.length)) bytes = .ok (.valBuf bytes)) ∧
  ∀ (s : State) (bytes : List Byte),
    let gone : State := { s with wvalid := false, wcount := 0, wbuf := Vector.replicate 16 none }
    (¬ validLength bytes.length → exec (.valBuf bytes) s = .next (raised gone 2)) ∧
    (validLength bytes.length → (∃ j hi lo c, chunkAt bytes j hi lo c ∧ check hi lo ≠ c) →
      exec (.valBuf bytes) s = .next (raised gone 1)) ∧
    (validLength bytes.length → (∀ j hi lo c, chunkAt bytes j hi lo c → check hi lo = c) →
      ∃ words : List Word, words.length = bytes.length / 3 ∧
        (∀ j hi lo c, chunkAt bytes j hi lo c → words[j]? = some (hi ++ lo)) ∧
        exec (.valBuf bytes) s = .next
          { s with
            wvalid := true, wcount := BitVec.ofNat 5 words.length, wbuf := Vector.ofFn fun j => words[j.val]?
            status := 0, rbyte := [], rword := words, rval := [], rflag := true, ru32 := 0 })

/-- `41_validator.md` R122. -/
def Obligations.ValBufAgreesWithFrmChk : Prop :=
  ∀ (s : State) (bytes : List Byte), validLength bytes.length → ∃ t, exec (.valBuf bytes) s = .next t ∧
    (t.status = 0 ↔
      ∀ j hi lo c, chunkAt bytes j hi lo c → ∃ u, exec (.frmChk hi lo c) s = .next u ∧ u.status = 0) ∧
    (t.status = 1 ↔
      ∃ j hi lo c, chunkAt bytes j hi lo c ∧ ∃ u, exec (.frmChk hi lo c) s = .next u ∧ u.status = 1) ∧
    (t.status = 0 → ∀ j hi lo c, chunkAt bytes j hi lo c →
      ∃ u w, exec (.frmChk hi lo c) s = .next u ∧ u.rword = [w] ∧ t.wbuf[j]? = some (some w))

/-- `40_crc.md` R101, R102, R106 against `41_validator.md` R120, R121: both directions use one CRC function. -/
def Obligations.FramedWordsValidateBack : Prop :=
  ∀ (s t : State) (bytes : List Byte), exec (.frmEnc bytes) s = .next t → t.status = 0 →
    ∃ u v, exec (.valBuf t.rbyte) t = .next u ∧ u.status = 0 ∧ u.wvalid = true ∧ u.rword = t.rword ∧
      exec .wbufRd u = .next v ∧ v.status = 0 ∧ v.rword = t.rword

/-- `41_validator.md` R121. -/
def Obligations.WbufRdReportsTheCommit : Prop :=
  decode 0x7000 [] = .ok .wbufRd ∧
  ∀ s : State,
    (s.wvalid = false → exec .wbufRd s = .next (raised s 4)) ∧
    (s.wvalid = true → ∀ words : List Word, words.length = s.wcount.toNat →
      (∀ (j : Nat) (w : Word), words[j]? = some w → s.wbuf[j]? = some (some w)) →
      exec .wbufRd s = .next
        { s with status := 0, rbyte := [], rword := words, rval := [], rflag := false, ru32 := 0 })

/-- `42_convert.md` R140, all eleven rows, with the template of section 2. -/
def Obligations.CvtConvertsEveryKind : Prop :=
  ∀ (s : State) (raw : Word),
    exec (.cvtMc raw) s = .next (converted s false 10 0xFFFF raw) ∧
    exec (.cvtNc raw) s = .next (converted s false 10 0xFFFF raw) ∧
    exec (.cvtTps raw) s = .next (converted s false 1000 0xFFFF raw) ∧
    exec (.cvtRh raw) s = .next (converted s true 100 0x7FFF raw) ∧
    exec (.cvtT raw) s = .next (converted s true 200 0x7FFF raw) ∧
    exec (.cvtVoc raw) s = .next (converted s true 10 0x7FFF raw) ∧
    exec (.cvtNox raw) s = .next (converted s true 10 0x7FFF raw) ∧
    exec (.cvtRvoc raw) s = .next (converted s false 1 0xFFFF raw) ∧
    exec (.cvtRnox raw) s = .next (converted s false 1 0xFFFF raw) ∧
    exec (.cvtRrh raw) s = .next (converted s true 100 0x7FFF raw) ∧
    exec (.cvtRt raw) s = .next (converted s true 200 0x7FFF raw)

/-- `42_convert.md` R152 items 1, 2, 4 and 5. -/
def Obligations.CvtResultsStayInRange : Prop :=
  ∀ (s : State) (k : Kind) (raw : Word), ∃ t p, exec (cvtOf k raw) s = .next t ∧ t.rval = [p] ∧
    (isNan32 p = true ↔ raw = (scaling k).sentinel) ∧ isInf32 p = false ∧ (p = 0 ↔ raw = 0) ∧ p ≠ 0x80000000 ∧
    (raw ≠ (scaling k).sentinel →
      (p.getLsbD 31 = true ↔ (scaling k).signed = true ∧ raw.toInt < 0) ∧ |value p| ≤ 65534 ∧
      (raw ≠ 0 → 1 / 1000 ≤ |value p|))

/-- `00_scope.md` R11: round-to-nearest, ties-to-even; `rne32(0)` is positive zero, whatever the denominator. The range takes in the
subnormals, where IEEE 754 is followed as log 10 says (PRESUMED); no operation of the block reaches them. -/
def Obligations.RneThirtyTwoIsNearestTiesToEven : Prop :=
  (∀ d : Nat, 0 < d → rne32 ⟨0, d⟩ = 0) ∧
  ∀ (n : Int) (d : Nat), 0 < d → n.natAbs ≤ (2 ^ 24 - 1) * 2 ^ 104 * d →
    let q : ℚ := (n : ℚ) / (d : ℚ)
    let p := rne32 ⟨n, d⟩
    finite p ∧
    (∀ p' : Bits32, finite p' → |value p - q| ≤ |value p' - q|) ∧
    ∀ p' : Bits32, finite p' → value p' ≠ value p → |value p' - q| = |value p - q| → p.getLsbD 0 = false

/-- `43_decode.md` R173. -/
def Obligations.DecMv50DecodesTheSen50Shape : Prop :=
  decoderRule 0x9000 .decMv50 (fun v => v = .sen50) 8 fun s w =>
    { s with
      status := 0, rbyte := []
      rval := [reading false 10 0xFFFF w[0], reading false 10 0xFFFF w[1], reading false 10 0xFFFF w[2],
        reading false 10 0xFFFF w[3]]
      rword := [w[0], w[1], w[2], w[3]], rflag := massOk w, ru32 := 0 }

/-- `43_decode.md` R174. -/
def Obligations.DecMv54DecodesTheSen54Shape : Prop :=
  decoderRule 0x9100 .decMv54 (fun v => v = .sen54) 8 fun s w =>
    { s with
      status := 0, rbyte := []
      rval := [reading false 10 0xFFFF w[0], reading false 10 0xFFFF w[1], reading false 10 0xFFFF w[2],
        reading false 10 0xFFFF w[3], reading true 100 0x7FFF w[4], reading true 200 0x7FFF w[5], reading true 10 0x7FFF w[6]]
      rword := [w[0], w[1], w[2], w[3], w[4], w[5], w[6]], rflag := massOk w, ru32 := 0 }

/-- `43_decode.md` R175. -/
def Obligations.DecMv55DecodesTheSen55Shape : Prop :=
  decoderRule 0x9200 .decMv55 (fun v => v = .sen55) 8 fun s w =>
    { s with
      status := 0, rbyte := []
      rval := [reading false 10 0xFFFF w[0], reading false 10 0xFFFF w[1], reading false 10 0xFFFF w[2],
        reading false 10 0xFFFF w[3], reading true 100 0x7FFF w[4], reading true 200 0x7FFF w[5], reading true 10 0x7FFF w[6],
        reading true 10 0x7FFF w[7]]
      rword := w.toList, rflag := massOk w, ru32 := 0 }

/-- `43_decode.md` R176. -/
def Obligations.DecPmDecodesTheTenValues : Prop :=
  decoderRule 0x9300 .decPm (fun _ => true) 10 fun s w =>
    { s with
      status := 0, rbyte := []
      rval := [reading false 10 0xFFFF w[0], reading false 10 0xFFFF w[1], reading false 10 0xFFFF w[2],
        reading false 10 0xFFFF w[3], reading false 10 0xFFFF w[4], reading false 10 0xFFFF w[5],
        reading false 10 0xFFFF w[6], reading false 10 0xFFFF w[7], reading false 10 0xFFFF w[8],
        reading false 1000 0xFFFF w[9]]
      rword := w.toList, rflag := decide (∀ j : Fin 10, w[j] ≠ 0xFFFF), ru32 := 0 }

/-- `43_decode.md` R177, for the machine's own parameters and for every legal choice of them (`00_scope.md` R6). -/
def Obligations.DecRawDecodesTheFourRawValues : Prop :=
  decoderRule 0x9400 .decRaw rawGate 4 (rawDecoded Config.params) ∧
  (∀ s, exec .decRaw s = decRawUnder Config.params s) ∧
  ∀ p, recordRule (decRawUnder p) (rawGateUnder p) 4 (rawDecoded p)

/-- `43_decode.md` R178. -/
def Obligations.DecRdyReportsDataReady : Prop :=
  decoderRule 0x9500 .decRdy (fun _ => true) 1 fun s w =>
    { s with
      status := 0, rbyte := [w[0].extractLsb' 0 8], rval := [], rword := w.toList
      rflag := decide (w[0].toNat % 256 = 1), ru32 := 0 }

/-- `43_decode.md` R179 with the named bits of `10_state.md` R34. -/
def Obligations.DecStsAssemblesTheStatus : Prop :=
  decoderRule 0x9600 .decSts (fun _ => true) 2 fun s w =>
    { s with
      status := 0, rbyte := [], rval := [], rword := w.toList, ru32 := w[0] ++ w[1]
      rflag := w[0].getLsbD 5 || w[0].getLsbD 3 || w[1].getLsbD 7 || w[1].getLsbD 6 || w[1].getLsbD 5 || w[1].getLsbD 4 }

/-- `43_decode.md` R180. -/
def Obligations.DecStrPassesTheString : Prop :=
  decoderRule 0x9700 .decStr (fun _ => true) 16 fun s w =>
    { s with
      status := 0, rbyte := w.toList.flatMap fun x => [x.extractLsb' 8 8, x.extractLsb' 0 8]
      rval := [], rword := w.toList, rflag := false, ru32 := 0 }

/-- `44_compensation.md` R203. -/
def Obligations.DecCmpDecodesTheRegisters : Prop :=
  decoderRule 0x9800 .decCmp (fun _ => true) 3 fun s w =>
    { s with
      status := 0, rbyte := []
      rval := [rne32 ⟨w[0].toInt, 200⟩, rne32 ⟨w[1].toInt, 10000⟩, rne32 ⟨w[2].toNat, 1⟩]
      rword := w.toList, rflag := false, ru32 := 0 }

/-- `10_state.md` R26 gives such an entry no value; the fault is the model's choice (log 8). -/
def Obligations.ReadersFaultOnlyOnMissingEntries : Prop :=
  (∀ d ∈ decoders, ∀ s : State, d.2.1 s.variant = true → s.wvalid = true → s.wcount.toNat = d.2.2 →
    missingEntry s d.2.2 → exec d.1 s = .fault .wbufEntryNone) ∧
  (∀ s : State, s.wvalid = true → missingEntry s s.wcount.toNat → exec .wbufRd s = .fault .wbufEntryNone) ∧
  (∀ i s r, exec i s = .fault r → s.wvalid = true ∧ missingEntry s s.wcount.toNat) ∧
  ∀ i s r, exec i s ≠ .refused r

/-- `44_compensation.md` R202, with the rounding of R201 over exact rationals. -/
def Obligations.CmpEncEncodesTheRoundedRegisters : Prop :=
  (∀ b0 b1 b2 b3 b4 b5 b6 b7 b8 b9 b10 b11 : Byte,
    decode 0xA00C [b0, b1, b2, b3, b4, b5, b6, b7, b8, b9, b10, b11] =
      .ok (.cmpEnc (b0 ++ b1 ++ b2 ++ b3) (b4 ++ b5 ++ b6 ++ b7) (b8 ++ b9 ++ b10 ++ b11))) ∧
  ∀ (s : State) (x0 x1 x2 : Bits32),
    (¬ (finite x0 ∧ finite x1 ∧ finite x2) → exec (.cmpEnc x0 x1 x2) s = .next (raised s 2)) ∧
    (finite x0 → finite x1 → finite x2 → ∀ o sl t : ℤ,
      rounds Config.params.compRounding (value x0 * 200) o → rounds Config.params.compRounding (value x1 * 10000) sl →
      truncates (value x2) t →
        ((-32768 ≤ o ∧ o ≤ 32767 ∧ -32768 ≤ sl ∧ sl ≤ 32767 ∧ 0 ≤ t ∧ t ≤ 65535) →
          exec (.cmpEnc x0 x1 x2) s = .next
            { s with
              status := 0, rword := [BitVec.ofInt 16 o, BitVec.ofInt 16 sl, BitVec.ofInt 16 t]
              rbyte := framed (BitVec.ofInt 16 o) ++ framed (BitVec.ofInt 16 sl) ++ framed (BitVec.ofInt 16 t)
              rval := [], rflag := false, ru32 := 0 }) ∧
        (¬ (-32768 ≤ o ∧ o ≤ 32767 ∧ -32768 ≤ sl ∧ sl ≤ 32767 ∧ 0 ≤ t ∧ t ≤ 65535) →
          exec (.cmpEnc x0 x1 x2) s = .next (raised s 2)))

/-- `44_compensation.md` R204 item 1. -/
def Obligations.CompWordsSurviveRoundTrip : Prop :=
  ∀ (s : State) (w : Vector Word 3), s.wvalid = true → s.wcount.toNat = 3 → holds s w →
    ∃ t v0 v1 v2 u, exec .decCmp s = .next t ∧ t.rval = [v0, v1, v2] ∧
      exec (.cmpEnc v0 v1 v2) t = .next u ∧ u.status = 0 ∧ u.rword = w.toList

/-- `44_compensation.md` R204 item 2. -/
def Obligations.CompValuesRoundTripWithinTolerance : Prop :=
  ∀ (s t s' : State) (x0 x1 x2 : Bits32) (w : Vector Word 3),
    exec (.cmpEnc x0 x1 x2) s = .next t → t.status = 0 → t.rword = w.toList →
    s'.wvalid = true → s'.wcount.toNat = 3 → holds s' w →
      ∃ u v0 v1 v2, exec .decCmp s' = .next u ∧ u.rval = [v0, v1, v2] ∧
        |value v0 - value x0| ≤ 1 / 200 ∧ |value v1 - value x1| ≤ 1 / 10000 ∧
        ∃ n : ℤ, truncates (value x2) n ∧ value v2 = n

/-- `45_config.md` R220. -/
def Obligations.CfgSelectsTheVariant : Prop :=
  decode 0xB000 [] = .ok .cfgSen50 ∧ decode 0xB100 [] = .ok .cfgSen54 ∧ decode 0xB200 [] = .ok .cfgSen55 ∧
  (∀ sel : Nat, 3 ≤ sel → sel ≤ 15 → ∀ s : State,
    present .host (BitVec.ofNat 16 (0xB000 + 256 * sel)) [] s = .next (raised s 5)) ∧
  ∀ s : State,
    exec .cfgSen50 s = .next
      { s with variant := .sen50, status := 0, rbyte := [0], rword := [], rval := [], rflag := false, ru32 := 0 } ∧
    exec .cfgSen54 s = .next
      { s with variant := .sen54, status := 0, rbyte := [1], rword := [], rval := [], rflag := false, ru32 := 0 } ∧
    exec .cfgSen55 s = .next
      { s with variant := .sen55, status := 0, rbyte := [2], rword := [], rval := [], rflag := false, ru32 := 0 }

/-- `45_config.md` R221. -/
def Obligations.CfgRdvReportsTheVariant : Prop :=
  decode 0xC000 [] = .ok .cfgRdv ∧
  ∀ s : State, exec .cfgRdv s = .next
    { s with
      status := 0, rword := [], rval := [], rflag := false, ru32 := 0
      rbyte := [match s.variant with
        | .sen50 => 0
        | .sen54 => 1
        | .sen55 => 2
        | .none => 3] }

/-- `10_state.md` R27: held by reset. -/
def Obligations.ResetStateMeetsTheInvariant : Prop :=
  BlockInv State.reset

/-- `10_state.md` R27, R31, R33. -/
def Obligations.EveryStepKeepsTheInvariant : Prop :=
  ∀ s t : State, BlockInv s → step s = .next t → BlockInv t

/-- `60_exceptions.md` R253: the block has no stuck state and no hang. The inputs list is the model's own (log 1). -/
def Obligations.DutifulHostNeverStopsTheBlock : Prop :=
  ∀ s : State, BlockInv s → HostDutiful s → ∃ t, step s = .next t ∧ BlockInv t ∧ HostDutiful t ∧ t.inputs = s.inputs.tail

/-- `60_exceptions.md` R253, `20_memory.md` R58: operations take effect one at a time, each in one step. The inputs list is the
model's own (log 1). -/
def Obligations.EveryDutifulRunCompletes : Prop :=
  ∀ inputs : List Input, inputs.all dutiful = true →
    ∃ t : State, Host.Core.run core inputs.length { State.reset with inputs := inputs } = .next t ∧
      t.inputs = [] ∧ BlockInv t

/-- `10_state.md` R30; with R32 the outcome's latches are the same too. -/
def Obligations.LatchesAreOnlyOutputs : Prop :=
  ∀ (i : Instr) (s s' : State), sameRegisters s s' → exec i s = exec i s'

/-- `10_state.md` R22, `40_crc.md` R101, `70_reset_and_hazards.md` R281. -/
def Obligations.AccIsPrivateToTheAccumulatorUnit : Prop :=
  (∀ (i : Instr) (s t : State) (a : Byte), ¬ usesAcc i → exec i s = .next t →
    t.acc = s.acc ∧ exec i { s with acc := a } = .next { t with acc := a }) ∧
  (∀ (s : State) (a : Byte), exec .crcInit { s with acc := a } = exec .crcInit s) ∧
  ∀ (s : State) (bytes : List Byte) (a : Byte), exec (.crcBuf bytes) { s with acc := a } = exec (.crcBuf bytes) s

/-- `10_state.md` R35, the writes. -/
def Obligations.RegisterWritersFollowTheAccessTable : Prop :=
  ∀ (i : Instr) (s t : State), exec i s = .next t →
    (t.acc = s.acc ∨ usesAcc i) ∧ (t.variant = s.variant ∨ selects i) ∧
    ((t.wvalid = s.wvalid ∧ t.wcount = s.wcount ∧ t.wbuf = s.wbuf) ∨ ∃ bytes, i = .valBuf bytes) ∧
    t.inputs = s.inputs

/-- `10_state.md` R23, `45_config.md` R220: no operation can write NONE. -/
def Obligations.VariantNoneComesOnlyFromReset : Prop :=
  ∀ s t : State, s.variant ≠ .none → step s = .next t → t.variant = .none → ∃ rest, s.inputs = .reset :: rest

/-- `60_exceptions.md` R246. -/
def Obligations.ErrorsChangeOnlyWhatPrecedesThem : Prop :=
  ∀ (i : Instr) (s t : State), exec i s = .next t → t.status ≠ 0 →
    t.acc = s.acc ∧ t.variant = s.variant ∧ t.inputs = s.inputs ∧
    ((∃ bytes, i = .valBuf bytes) → t.wvalid = false ∧ t.wcount = 0 ∧ t.wbuf = Vector.replicate 16 none) ∧
    (¬ (∃ bytes, i = .valBuf bytes) → t.wvalid = s.wvalid ∧ t.wcount = s.wcount ∧ t.wbuf = s.wbuf)

/-- `60_exceptions.md` R243. -/
def Obligations.ErrorsRecordOnlyTheirCode : Prop :=
  ∀ (i : Instr) (s t : State), exec i s = .next t → t.status ≠ 0 →
    t.rword = [] ∧ t.rval = [] ∧ t.rflag = false ∧ t.ru32 = 0 ∧
    (∀ hi lo c, i = .frmChk hi lo c → t.rbyte = [check hi lo]) ∧
    (¬ (∃ hi lo c, i = .frmChk hi lo c) → t.rbyte = [])

/-- `60_exceptions.md` R240, R242. -/
def Obligations.StatusCodesFollowTheRaiseTable : Prop :=
  ∀ (i : Instr) (s t : State), exec i s = .next t → t.status ∈ mayEndWith i

/-- `20_memory.md` R57, `43_decode.md` R181 item 2. -/
def Obligations.ReadersAreRepeatable : Prop :=
  ∀ (i : Instr) (s t : State), readsOnly i → exec i s = .next t →
    sameRegisters s t ∧ exec i t = .next t

/-- `43_decode.md` R181 item 3, `70_reset_and_hazards.md` R282. -/
def Obligations.FailedValidationLeavesNothingToDecode : Prop :=
  ∀ (s t : State) (bytes : List Byte), exec (.valBuf bytes) s = .next t → t.status ≠ 0 →
    (∀ d ∈ decoders, ∃ u, exec d.1 t = .next u ∧ reportsNothing u ∧
      u.status = (if d.2.1 t.variant then 4 else 3)) ∧
    ∃ u, exec .wbufRd t = .next u ∧ u.status = 4 ∧ reportsNothing u
end

