-- ==== Sys2Proof/Laws/Operands.lean ====
section
/-! SUPPORT. The small lemmas of the operand helpers: halves and concatenations invert each other, ranges narrow without
loss, and an operand list of `2k` or `3k` bytes is `k` words or chunks. -/

namespace Sys2Proof.Machine

@[simp] theorem hi8_cat16 (hi lo : Byte) : hi8 (cat16 hi lo) = hi := by
  ext j
  simp [hi8, cat16]
  grind

@[simp] theorem lo8_cat16 (hi lo : Byte) : lo8 (cat16 hi lo) = lo := by
  ext j
  simp [lo8, cat16]
  grind

@[simp] theorem cat16_hi8_lo8 (w : Word) : cat16 (hi8 w) (lo8 w) = w := by
  ext j
  simp [cat16, hi8, lo8]
  grind

/-- `bytes32` gives the bytes `be32` reads. -/
theorem bytes32_be32 (b0 b1 b2 b3 : Byte) : bytes32 (be32 b0 b1 b2 b3) = [b0, b1, b2, b3] := by
  simp only [bytes32, be32, cat32, cat16, List.cons.injEq, and_true]
  refine ⟨?_, ?_, ?_, ?_⟩ <;>
  · ext j
    simp
    grind

/-- `be32` reassembles the bytes of `bytes32`. -/
theorem be32_bytes32 (x : Bits32) :
    be32 (x.extractLsb' 24 8) (x.extractLsb' 16 8) (x.extractLsb' 8 8) (x.extractLsb' 0 8) = x := by
  ext j
  simp [be32, cat32, cat16]
  grind

/-- `cat16` is `hi * 256 + lo` (R8). -/
theorem cat16_toNat (hi lo : Byte) : (cat16 hi lo).toNat = hi.toNat * 256 + lo.toNat := by
  have h := BitVec.toNat_append hi lo
  rw [cat16, h, ← Nat.shiftLeft_add_eq_or_of_lt lo.isLt, Nat.shiftLeft_eq]

/-- `cat32` is `a * 65536 + b` (R8). -/
theorem cat32_toNat (a b : Word) : (cat32 a b).toNat = a.toNat * 65536 + b.toNat := by
  have h := BitVec.toNat_append a b
  rw [cat32, h, ← Nat.shiftLeft_add_eq_or_of_lt b.isLt, Nat.shiftLeft_eq]

/-- A word in the signed range reads back as itself. -/
theorem sext16_enc16 {n : Int} (h : int16ok n = true) : sext16 (enc16 n) = n := by
  simp only [int16ok, decide_eq_true_eq] at h
  simp only [sext16, enc16, BitVec.toInt_ofInt]
  exact Int.bmod_eq_of_le (by omega) (by omega)

/-- A word in the unsigned range reads back as itself. -/
theorem zext16_enc16 {n : Int} (h : uint16ok n = true) : zext16 (enc16 n) = n := by
  simp only [uint16ok, decide_eq_true_eq] at h
  simp only [zext16, enc16, BitVec.toNat_ofInt]
  omega

theorem enc16_sext16 (w : Word) : enc16 (sext16 w) = w := by
  simp [enc16, sext16]

theorem enc16_zext16 (w : Word) : enc16 (zext16 w) = w := by
  simp [enc16, zext16]

theorem int16ok_sext16 (w : Word) : int16ok (sext16 w) = true := by
  have hlt := BitVec.toInt_lt (x := w)
  have hle := BitVec.le_toInt (x := w)
  exact decide_eq_true ⟨by simpa [sext16] using hle, by simp only [sext16]; omega⟩

theorem uint16ok_zext16 (w : Word) : uint16ok (zext16 w) = true := by
  exact decide_eq_true ⟨by simp [zext16], by simp only [zext16]; omega⟩

/-! ## Operand lists -/

@[simp] theorem wordsOf_length (bytes : List Byte) : (wordsOf bytes).length = bytes.length / 2 := by
  induction bytes using wordsOf.induct with
  | case1 hi lo rest ih => simp [wordsOf, ih]; omega
  | case2 t h =>
    rw [wordsOf]
    · match t, h with
      | [], _ => rfl
      | [_], _ => simp
      | a :: b :: r, h => exact absurd rfl (h a b r)
    · exact h

@[simp] theorem chunksOf_length (bytes : List Byte) : (chunksOf bytes).length = bytes.length / 3 := by
  induction bytes using chunksOf.induct with
  | case1 hi lo check rest ih => simp [chunksOf, ih]; omega
  | case2 t h =>
    rw [chunksOf]
    · match t, h with
      | [], _ => rfl
      | [_], _ => simp
      | [_, _], _ => simp
      | a :: b :: c :: r, h => exact absurd rfl (h a b c r)
    · exact h

/-- Word `j` of an operand list is its bytes `2j` and `2j+1` (`30_encoding.md` R72). -/
theorem wordsOf_getElem? (bytes : List Byte) (j : Nat) (hi lo : Byte) (h0 : bytes[2 * j]? = some hi)
    (h1 : bytes[2 * j + 1]? = some lo) : (wordsOf bytes)[j]? = some (cat16 hi lo) := by
  induction j generalizing bytes with
  | zero =>
    match bytes, h0, h1 with
    | a :: b :: r, h0, h1 => simp_all [wordsOf]
  | succ j ih =>
    match bytes, h0, h1 with
    | [a], h0, _ => simp at h0
    | a :: b :: r, h0, h1 =>
      simp only [wordsOf, List.getElem?_cons_succ]
      exact ih r (by simpa [Nat.mul_add] using h0) (by simpa [Nat.mul_add] using h1)

/-- Chunk `j` of a buffer is its bytes `3j` to `3j+2` (`20_memory.md` R56). -/
theorem chunksOf_getElem? (bytes : List Byte) (j : Nat) (hi lo check : Byte) (h0 : bytes[3 * j]? = some hi)
    (h1 : bytes[3 * j + 1]? = some lo) (h2 : bytes[3 * j + 2]? = some check) :
    (chunksOf bytes)[j]? = some ⟨hi, lo, check⟩ := by
  induction j generalizing bytes with
  | zero =>
    match bytes, h0, h1, h2 with
    | a :: b :: c :: r, h0, h1, h2 => simp_all [chunksOf]
  | succ j ih =>
    match bytes, h0, h1, h2 with
    | [a], h0, _, _ => simp at h0
    | [a, b], _, h1, _ => simp at h1
    | a :: b :: c :: r, h0, h1, h2 =>
      simp only [chunksOf, List.getElem?_cons_succ]
      exact ih r (by simpa [Nat.mul_add] using h0) (by simpa [Nat.mul_add] using h1) (by simpa [Nat.mul_add] using h2)

end Sys2Proof.Machine
end

