-- ==== Sys2Proof/Laws/Crc.lean ====
section
/-! SUPPORT. The small lemmas of the CRC functions and of frames. -/

namespace Sys2Proof.Machine

@[simp] theorem crcFeed_nil (acc : Byte) : crcFeed acc [] = acc := rfl

@[simp] theorem crcFeed_cons (acc b : Byte) (bytes : List Byte) :
    crcFeed acc (b :: bytes) = crcFeed (crcStep acc b) bytes := rfl

/-- Feeding a buffer in two parts is feeding it whole. -/
theorem crcFeed_append (acc : Byte) (l m : List Byte) : crcFeed acc (l ++ m) = crcFeed (crcFeed acc l) m := by
  simp [crcFeed]

/-- A step depends on `acc ^ b` alone. -/
theorem crcStep_eq (acc b : Byte) : crcStep acc b = Nat.iterate crcShift 8 (acc ^^^ b) := rfl

/-- A byte equal to the running value clears it. -/
theorem crcStep_self (acc : Byte) : crcStep acc acc = 0 := by
  rw [crcStep_eq, BitVec.xor_self]
  decide

/-- One shift is linear over exclusive OR. -/
theorem crcShift_xor (a b : Byte) : crcShift (a ^^^ b) = crcShift a ^^^ crcShift b := by
  unfold crcShift
  rw [BitVec.getLsbD_xor, BitVec.shiftLeft_xor_distrib]
  cases a.getLsbD 7 <;> cases b.getLsbD 7 <;>
  · ext j
    simp
    try grind

theorem crcShift_iterate_xor (n : Nat) (a b : Byte) :
    Nat.iterate crcShift n (a ^^^ b) = Nat.iterate crcShift n a ^^^ Nat.iterate crcShift n b := by
  induction n generalizing a b with
  | zero => rfl
  | succ n ih => simp only [Function.iterate_succ, Function.comp, crcShift_xor, ih]

/-- The step is linear in the accumulator and the byte together. -/
theorem crcStep_xor (a a' b b' : Byte) : crcStep (a ^^^ a') (b ^^^ b') = crcStep a b ^^^ crcStep a' b' := by
  rw [crcStep_eq, crcStep_eq, crcStep_eq, ← crcShift_iterate_xor]
  congr 1
  ext j
  simp
  grind

/-! ## Frames and chunks -/

@[simp] theorem frame_length (w : Word) : (frame w).length = 3 := rfl

theorem flatMap_frame_length (words : List Word) : (words.flatMap frame).length = 3 * words.length := by
  induction words with
  | nil => rfl
  | cons w ws ih => simp [List.flatMap_cons, ih]; omega

/-- The chunks of framed words are one correct chunk per word. -/
theorem chunksOf_flatMap_frame (words : List Word) :
    chunksOf (words.flatMap frame) = words.map fun w => ⟨hi8 w, lo8 w, checkByte (hi8 w) (lo8 w)⟩ := by
  induction words with
  | nil => rfl
  | cons w ws ih => simp [List.flatMap_cons, frame, chunksOf, ih]

theorem chunkOk_iff (c : Chunk) : chunkOk c = true ↔ crc8 [c.hi, c.lo] = c.check := by
  simp [chunkOk, checkByte]

end Sys2Proof.Machine
end

