-- ==== Sys2Proof/Laws/Decode.lean ====
section
/-! SUPPORT. The small lemmas of the descriptor and of decoding. -/

namespace Sys2Proof

open Machine

/-! ## Descriptor fields -/

@[simp] theorem opField_mkDesc (op sel : BitVec 4) (len : BitVec 8) : opField (mkDesc op sel len) = op := by
  ext j
  simp [opField, mkDesc]
  grind

@[simp] theorem selField_mkDesc (op sel : BitVec 4) (len : BitVec 8) : selField (mkDesc op sel len) = sel := by
  ext j
  simp [selField, mkDesc]
  grind

@[simp] theorem lenField_mkDesc (op sel : BitVec 4) (len : BitVec 8) : lenField (mkDesc op sel len) = len := by
  ext j
  simp [lenField, mkDesc]
  grind

/-- A descriptor is its three fields. -/
theorem mkDesc_fields (desc : Word) : mkDesc (opField desc) (selField desc) (lenField desc) = desc := by
  ext j
  simp [mkDesc, opField, selField, lenField]
  grind

theorem opField_toNat (desc : Word) : (opField desc).toNat = desc.toNat / 4096 := by
  simp [opField, BitVec.extractLsb'_toNat, Nat.shiftRight_eq_div_pow]
  omega

theorem selField_toNat (desc : Word) : (selField desc).toNat = desc.toNat / 256 % 16 := by
  simp [selField, BitVec.extractLsb'_toNat, Nat.shiftRight_eq_div_pow]

theorem lenField_toNat (desc : Word) : (lenField desc).toNat = desc.toNat % 256 := by
  simp [lenField, BitVec.extractLsb'_toNat]

/-! ## Decoding -/

/-- Everything decoding can answer with an operation. -/
theorem decode_eq_ok_iff (desc : Word) (din : List Byte) (i : Instr) :
    decode desc din = .ok i ↔
      din.length = (lenField desc).toNat ∧ decodeFields (opField desc).toNat (selField desc).toNat din = some i := by
  unfold decode
  by_cases hl : din.length = (lenField desc).toNat
  · cases hf : decodeFields (opField desc).toNat (selField desc).toNat din <;> simp [hl]
  · simp [hl]

/-- The operand count is the only reason that is no reserved descriptor. -/
theorem decode_eq_operandCount_iff (desc : Word) (din : List Byte) :
    decode desc din = .error .operandCount ↔ din.length ≠ (lenField desc).toNat := by
  unfold decode
  by_cases hl : din.length = (lenField desc).toNat
  · cases hf : decodeFields (opField desc).toNat (selField desc).toNat din
    · simp only [hl, reservedReason]
      cases maxSel (opField desc) with
      | none => simp
      | some m => by_cases hm : m < (selField desc).toNat <;> simp [hm]
    · simp [hl]
  · simp [hl]

theorem decodeTableWord_eq_some_iff (nbits w : Nat) (i : Instr) :
    decodeTableWord nbits w = some i ↔ decode (tableOperation nbits w).1 (tableOperation nbits w).2 = .ok i := by
  unfold decodeTableWord
  cases decode (tableOperation nbits w).1 (tableOperation nbits w).2 <;> simp

end Sys2Proof
end

