-- ==== Sys2Proof/Laws/State.lean ====
section
/-! SUPPORT. The record-update lemmas of the state: one per field per named update, each true by rfl, so that no later proof
unfolds an update. -/

namespace Sys2Proof.Machine

/-! ## `respond` -/

@[simp] theorem respond_acc (r : Response) (s : State) :
    (respond r s).acc = s.acc := rfl
@[simp] theorem respond_variant (r : Response) (s : State) :
    (respond r s).variant = s.variant := rfl
@[simp] theorem respond_wvalid (r : Response) (s : State) :
    (respond r s).wvalid = s.wvalid := rfl
@[simp] theorem respond_wcount (r : Response) (s : State) :
    (respond r s).wcount = s.wcount := rfl
@[simp] theorem respond_wbuf (r : Response) (s : State) :
    (respond r s).wbuf = s.wbuf := rfl
@[simp] theorem respond_status (r : Response) (s : State) :
    (respond r s).status = r.status.code := rfl
@[simp] theorem respond_rbyte (r : Response) (s : State) :
    (respond r s).rbyte = r.rbyte := rfl
@[simp] theorem respond_rword (r : Response) (s : State) :
    (respond r s).rword = r.rword := rfl
@[simp] theorem respond_rval (r : Response) (s : State) :
    (respond r s).rval = r.rval := rfl
@[simp] theorem respond_rflag (r : Response) (s : State) :
    (respond r s).rflag = r.rflag := rfl
@[simp] theorem respond_ru32 (r : Response) (s : State) :
    (respond r s).ru32 = r.ru32 := rfl
@[simp] theorem respond_inputs (r : Response) (s : State) :
    (respond r s).inputs = s.inputs := rfl

/-! ## `raise` -/

@[simp] theorem raise_acc (c : Status) (s : State) :
    (raise c s).acc = s.acc := rfl
@[simp] theorem raise_variant (c : Status) (s : State) :
    (raise c s).variant = s.variant := rfl
@[simp] theorem raise_wvalid (c : Status) (s : State) :
    (raise c s).wvalid = s.wvalid := rfl
@[simp] theorem raise_wcount (c : Status) (s : State) :
    (raise c s).wcount = s.wcount := rfl
@[simp] theorem raise_wbuf (c : Status) (s : State) :
    (raise c s).wbuf = s.wbuf := rfl
@[simp] theorem raise_status (c : Status) (s : State) :
    (raise c s).status = c.code := rfl
@[simp] theorem raise_rbyte (c : Status) (s : State) :
    (raise c s).rbyte = [] := rfl
@[simp] theorem raise_rword (c : Status) (s : State) :
    (raise c s).rword = [] := rfl
@[simp] theorem raise_rval (c : Status) (s : State) :
    (raise c s).rval = [] := rfl
@[simp] theorem raise_rflag (c : Status) (s : State) :
    (raise c s).rflag = false := rfl
@[simp] theorem raise_ru32 (c : Status) (s : State) :
    (raise c s).ru32 = 0 := rfl
@[simp] theorem raise_inputs (c : Status) (s : State) :
    (raise c s).inputs = s.inputs := rfl

/-! ## `illegalOp` -/

@[simp] theorem illegalOp_acc (s : State) :
    (illegalOp s).acc = s.acc := rfl
@[simp] theorem illegalOp_variant (s : State) :
    (illegalOp s).variant = s.variant := rfl
@[simp] theorem illegalOp_wvalid (s : State) :
    (illegalOp s).wvalid = s.wvalid := rfl
@[simp] theorem illegalOp_wcount (s : State) :
    (illegalOp s).wcount = s.wcount := rfl
@[simp] theorem illegalOp_wbuf (s : State) :
    (illegalOp s).wbuf = s.wbuf := rfl
@[simp] theorem illegalOp_status (s : State) :
    (illegalOp s).status = 5 := rfl
@[simp] theorem illegalOp_rbyte (s : State) :
    (illegalOp s).rbyte = [] := rfl
@[simp] theorem illegalOp_rword (s : State) :
    (illegalOp s).rword = [] := rfl
@[simp] theorem illegalOp_rval (s : State) :
    (illegalOp s).rval = [] := rfl
@[simp] theorem illegalOp_rflag (s : State) :
    (illegalOp s).rflag = false := rfl
@[simp] theorem illegalOp_ru32 (s : State) :
    (illegalOp s).ru32 = 0 := rfl
@[simp] theorem illegalOp_inputs (s : State) :
    (illegalOp s).inputs = s.inputs := rfl

/-! ## `invalidate` -/

@[simp] theorem invalidate_acc (s : State) :
    (invalidate s).acc = s.acc := rfl
@[simp] theorem invalidate_variant (s : State) :
    (invalidate s).variant = s.variant := rfl
@[simp] theorem invalidate_wvalid (s : State) :
    (invalidate s).wvalid = false := rfl
@[simp] theorem invalidate_wcount (s : State) :
    (invalidate s).wcount = 0 := rfl
@[simp] theorem invalidate_wbuf (s : State) :
    (invalidate s).wbuf = Vector.replicate 16 none := rfl
@[simp] theorem invalidate_status (s : State) :
    (invalidate s).status = s.status := rfl
@[simp] theorem invalidate_rbyte (s : State) :
    (invalidate s).rbyte = s.rbyte := rfl
@[simp] theorem invalidate_rword (s : State) :
    (invalidate s).rword = s.rword := rfl
@[simp] theorem invalidate_rval (s : State) :
    (invalidate s).rval = s.rval := rfl
@[simp] theorem invalidate_rflag (s : State) :
    (invalidate s).rflag = s.rflag := rfl
@[simp] theorem invalidate_ru32 (s : State) :
    (invalidate s).ru32 = s.ru32 := rfl
@[simp] theorem invalidate_inputs (s : State) :
    (invalidate s).inputs = s.inputs := rfl

/-! ## `commit` -/

@[simp] theorem commit_acc (words : List Word) (s : State) :
    (commit words s).acc = s.acc := rfl
@[simp] theorem commit_variant (words : List Word) (s : State) :
    (commit words s).variant = s.variant := rfl
@[simp] theorem commit_wvalid (words : List Word) (s : State) :
    (commit words s).wvalid = true := rfl
@[simp] theorem commit_wcount (words : List Word) (s : State) :
    (commit words s).wcount = BitVec.ofNat 5 words.length := rfl
@[simp] theorem commit_wbuf (words : List Word) (s : State) :
    (commit words s).wbuf = Vector.ofFn fun j => words[j.val]? := rfl
@[simp] theorem commit_status (words : List Word) (s : State) :
    (commit words s).status = s.status := rfl
@[simp] theorem commit_rbyte (words : List Word) (s : State) :
    (commit words s).rbyte = s.rbyte := rfl
@[simp] theorem commit_rword (words : List Word) (s : State) :
    (commit words s).rword = s.rword := rfl
@[simp] theorem commit_rval (words : List Word) (s : State) :
    (commit words s).rval = s.rval := rfl
@[simp] theorem commit_rflag (words : List Word) (s : State) :
    (commit words s).rflag = s.rflag := rfl
@[simp] theorem commit_ru32 (words : List Word) (s : State) :
    (commit words s).ru32 = s.ru32 := rfl
@[simp] theorem commit_inputs (words : List Word) (s : State) :
    (commit words s).inputs = s.inputs := rfl

/-! ## `loadAcc` -/

@[simp] theorem loadAcc_acc (value : Byte) (s : State) :
    (loadAcc value s).acc = value := rfl
@[simp] theorem loadAcc_variant (value : Byte) (s : State) :
    (loadAcc value s).variant = s.variant := rfl
@[simp] theorem loadAcc_wvalid (value : Byte) (s : State) :
    (loadAcc value s).wvalid = s.wvalid := rfl
@[simp] theorem loadAcc_wcount (value : Byte) (s : State) :
    (loadAcc value s).wcount = s.wcount := rfl
@[simp] theorem loadAcc_wbuf (value : Byte) (s : State) :
    (loadAcc value s).wbuf = s.wbuf := rfl
@[simp] theorem loadAcc_status (value : Byte) (s : State) :
    (loadAcc value s).status = 0 := rfl
@[simp] theorem loadAcc_rbyte (value : Byte) (s : State) :
    (loadAcc value s).rbyte = [value] := rfl
@[simp] theorem loadAcc_rword (value : Byte) (s : State) :
    (loadAcc value s).rword = [] := rfl
@[simp] theorem loadAcc_rval (value : Byte) (s : State) :
    (loadAcc value s).rval = [] := rfl
@[simp] theorem loadAcc_rflag (value : Byte) (s : State) :
    (loadAcc value s).rflag = false := rfl
@[simp] theorem loadAcc_ru32 (value : Byte) (s : State) :
    (loadAcc value s).ru32 = 0 := rfl
@[simp] theorem loadAcc_inputs (value : Byte) (s : State) :
    (loadAcc value s).inputs = s.inputs := rfl

/-! ## `assertReset` -/

@[simp] theorem assertReset_acc (s : State) :
    (assertReset s).acc = State.reset.acc := rfl
@[simp] theorem assertReset_variant (s : State) :
    (assertReset s).variant = State.reset.variant := rfl
@[simp] theorem assertReset_wvalid (s : State) :
    (assertReset s).wvalid = State.reset.wvalid := rfl
@[simp] theorem assertReset_wcount (s : State) :
    (assertReset s).wcount = State.reset.wcount := rfl
@[simp] theorem assertReset_wbuf (s : State) :
    (assertReset s).wbuf = State.reset.wbuf := rfl
@[simp] theorem assertReset_status (s : State) :
    (assertReset s).status = State.reset.status := rfl
@[simp] theorem assertReset_rbyte (s : State) :
    (assertReset s).rbyte = State.reset.rbyte := rfl
@[simp] theorem assertReset_rword (s : State) :
    (assertReset s).rword = State.reset.rword := rfl
@[simp] theorem assertReset_rval (s : State) :
    (assertReset s).rval = State.reset.rval := rfl
@[simp] theorem assertReset_rflag (s : State) :
    (assertReset s).rflag = State.reset.rflag := rfl
@[simp] theorem assertReset_ru32 (s : State) :
    (assertReset s).ru32 = State.reset.ru32 := rfl
@[simp] theorem assertReset_inputs (s : State) :
    (assertReset s).inputs = s.inputs := rfl

end Sys2Proof.Machine
end

