-- ==== Sys2Proof/Laws/Ops.lean ====
section
/-! SUPPORT. One lemma per shared operation that says everything it can do, so that callers cite it instead of unfolding
it. -/

namespace Sys2Proof.Machine

/-! ## Status codes -/

theorem status_code_le_five (c : Status) : c.code.toNat ≤ 5 := by
  cases c <;> decide

theorem status_code_injective {c c' : Status} (h : c.code = c'.code) : c = c' := by
  cases c <;> cases c' <;> first | rfl | exact absurd h (by decide)

theorem variant_code_injective {v v' : Variant} (h : v.code = v'.code) : v = v' := by
  cases v <;> cases v' <;> first | rfl | exact absurd h (by decide)

/-! ## The word buffer -/

theorem wbufEntry_of_lt (s : State) {j : Nat} (h : j < 16) : wbufEntry s j = s.wbuf[j] := by
  simp [wbufEntry, h]

theorem wbufEntry_of_ge (s : State) {j : Nat} (h : 16 ≤ j) : wbufEntry s j = none := by
  simp [wbufEntry, Nat.not_lt.mpr h]

/-- An entry is a word exactly where the buffer holds that word. -/
theorem wbufEntry_eq_some_iff (s : State) (j : Nat) (w : Word) :
    wbufEntry s j = some w ↔ s.wbuf[j]? = some (some w) := by
  by_cases h : j < 16
  · simp [wbufEntry, h]
  · simp [wbufEntry, h]

@[simp] theorem wbufEntry_respond (r : Response) (s : State) (j : Nat) : wbufEntry (respond r s) j = wbufEntry s j := rfl

@[simp] theorem wbufEntry_raise (c : Status) (s : State) (j : Nat) : wbufEntry (raise c s) j = wbufEntry s j := rfl

@[simp] theorem wbufEntry_invalidate (s : State) (j : Nat) : wbufEntry (invalidate s) j = none := by
  by_cases h : j < 16 <;> simp [wbufEntry, h]

theorem wbufEntry_commit (words : List Word) (s : State) (hw : words.length ≤ 16) (j : Nat) :
    wbufEntry (commit words s) j = words[j]? := by
  by_cases h : j < 16
  · simp [wbufEntry, h]
  · simp only [wbufEntry, h, dite_false]
    exact (List.getElem?_eq_none (by omega)).symm

/-- What reading `n` words gives: the vector of words the entries hold. -/
theorem committedWords_eq_some_iff (n : Nat) (s : State) (w : Vector Word n) :
    committedWords n s = some w ↔ ∀ j : Fin n, wbufEntry s j = some w[j] := by
  unfold committedWords
  split
  · next h =>
    rw [Option.some_inj]
    constructor
    · rintro rfl j
      simp
    · intro hw
      ext j hj
      simp [hw ⟨j, hj⟩]
  · next h =>
    constructor
    · intro hc
      exact absurd hc (by simp)
    · intro hw
      exact absurd (fun j => by simp [hw j]) h

/-- Reading fails exactly where an entry is none. -/
theorem committedWords_eq_none_iff (n : Nat) (s : State) :
    committedWords n s = none ↔ ∃ j : Fin n, wbufEntry s j = none := by
  unfold committedWords
  split
  · next h =>
    simp only [reduceCtorEq, false_iff, not_exists]
    intro j hj
    simpa [hj] using h j
  · next h =>
    simp only [true_iff]
    by_contra hn
    exact h fun j => by
      cases hj : wbufEntry s j with
      | none => exact absurd ⟨j, hj⟩ hn
      | some w => rfl

/-- The read depends on the buffer alone. -/
theorem committedWords_congr {s s' : State} (n : Nat) (h : s.wbuf = s'.wbuf) :
    committedWords n s = committedWords n s' := by
  have he : wbufEntry s = wbufEntry s' := by
    funext j
    simp [wbufEntry, h]
  simp [committedWords, he]

/-- `respondWithWords`: the response of the words held, or the fault where an entry is none. -/
theorem respondWithWords_eq_next_iff (n : Nat) (answer : Vector Word n → Response) (s t : State) :
    respondWithWords n answer s = .next t ↔
      ∃ w, committedWords n s = some w ∧ t = respond (answer w) s := by
  unfold respondWithWords
  split
  · next w hw =>
    constructor
    · intro h
      cases h
      exact ⟨w, hw, rfl⟩
    · rintro ⟨w', hw', rfl⟩
      cases hw.symm.trans hw'
      rfl
  · next hw =>
    constructor
    · intro h
      cases h
    · rintro ⟨w', hw', -⟩
      rw [hw] at hw'
      cases hw'

/-! ## The decoders' prelude -/

/-- Where all four conditions hold, a decoder answers its record. -/
theorem decodeRecord_ok {gate : Bool} {n : Nat} {s : State} {w : Vector Word n} (answer : Vector Word n → Response)
    (hg : gate = true) (hv : s.wvalid = true) (hc : s.wcount.toNat = n) (hw : committedWords n s = some w) :
    decodeRecord gate n answer s = .next (respond (answer w) s) := by
  simp [decodeRecord, respondWithWords, hg, hv, hc, hw]

/-- Everything a decoder can answer as a next state, in the order of its checks. -/
theorem decodeRecord_cases {gate : Bool} {n : Nat} {answer : Vector Word n → Response} {s t : State}
    (h : decodeRecord gate n answer s = .next t) :
    (gate = false ∧ t = raise .unsupportedVariant s) ∨
    (gate = true ∧ s.wvalid = false ∧ t = raise .noData s) ∨
    (gate = true ∧ s.wvalid = true ∧ s.wcount.toNat ≠ n ∧ t = raise .invalidArgument s) ∨
    (gate = true ∧ s.wvalid = true ∧ s.wcount.toNat = n ∧
      ∃ w, committedWords n s = some w ∧ t = respond (answer w) s) := by
  unfold decodeRecord at h
  split at h
  · next hg =>
    cases h
    exact .inl ⟨hg, rfl⟩
  · next hg =>
    have hg : gate = true := by simpa using hg
    split at h
    · next hv =>
      cases h
      exact .inr (.inl ⟨hg, hv, rfl⟩)
    · next hv =>
      have hv : s.wvalid = true := by simpa using hv
      split at h
      · next hc =>
        cases h
        exact .inr (.inr (.inl ⟨hg, hv, hc, rfl⟩))
      · next hc =>
        exact .inr (.inr (.inr ⟨hg, hv, not_not.mp hc, (respondWithWords_eq_next_iff n answer s t).mp h⟩))

/-- A decoder stops only on an entry that is none, and only past all its checks. -/
theorem decodeRecord_eq_fault_iff (gate : Bool) (n : Nat) (answer : Vector Word n → Response) (s : State) :
    decodeRecord gate n answer s = .fault .wbufEntryNone ↔
      gate = true ∧ s.wvalid = true ∧ s.wcount.toNat = n ∧ committedWords n s = none := by
  unfold decodeRecord respondWithWords
  cases gate <;> cases hv : s.wvalid <;> simp
  by_cases hc : s.wcount.toNat = n
  · cases hw : committedWords n s <;> simp [hc]
  · simp [hc]

end Sys2Proof.Machine
end

