-- ==== Sys2Proof/Laws/Exec.lean ====
section
/-! SUPPORT. What an operation can do to the machine, said once: which registers it writes, and how much its latches hold.
Later proofs about every operation cite `exec_effect` instead of unfolding the meanings. -/

namespace Sys2Proof.Machine

/-- The operations that write `ACC` (`10_state.md` R22). -/
def writesAcc : Instr → Bool
  | .crcInit => true
  | .crcFeed _ => true
  | .crcBuf _ => true
  | _ => false

/-- The list latches' sizes (`10_state.md` R33). -/
def responseFits (r : Response) : Prop :=
  r.rbyte.length ≤ 48 ∧ r.rword.length ≤ 16 ∧ r.rval.length ≤ 10

/-- Everything an operation that goes on can have done. -/
inductive Effect (i : Instr) (s t : State) (r : Response) : Prop
  /-- Only the latches. -/
  | latches (h : t = respond r s)
  /-- `ACC`, by the three CRC operations. -/
  | accumulator (a : Byte) (hi : writesAcc i = true) (h : t = respond r { s with acc := a })
  /-- The commit is gone, by VAL.BUF. -/
  | invalidated (bytes : List Byte) (hi : i = .valBuf bytes) (h : t = respond r (invalidate s))
  /-- A new commit, by VAL.BUF. -/
  | committed (bytes : List Byte) (words : List Word) (hi : i = .valBuf bytes) (hpos : 1 ≤ words.length)
      (hle : words.length ≤ 16) (h : t = respond r (commit words s))
  /-- `VARIANT`, by the three CFG.SEN operations, to their own variant. -/
  | variant (v : Variant)
      (hi : (i = .cfgSen50 ∧ v = .sen50) ∨ (i = .cfgSen54 ∧ v = .sen54) ∨ (i = .cfgSen55 ∧ v = .sen55))
      (h : t = respond r { s with variant := v })

theorem committedWords_some_le {n : Nat} {s : State} {w : Vector Word n} (h : committedWords n s = some w) : n ≤ 16 := by
  by_contra hn
  have hj := (committedWords_eq_some_iff n s w).mp h ⟨16, by omega⟩
  rw [wbufEntry_of_ge s (le_refl 16)] at hj
  cases hj

/-- A decoder writes only the latches, and what it reports fits where its record does. -/
theorem decodeRecord_effect {i : Instr} {n : Nat} {s t : State} (gate : Bool) (answer : Vector Word n → Response)
    (hfit : ∀ w, responseFits (answer w)) (h : decodeRecord gate n answer s = .next t) :
    ∃ r, responseFits r ∧ Effect i s t r := by
  rcases decodeRecord_cases h with ⟨-, rfl⟩ | ⟨-, -, rfl⟩ | ⟨-, -, -, rfl⟩ | ⟨-, -, -, w, -, rfl⟩
  · exact ⟨{ status := .unsupportedVariant }, by simp [responseFits], .latches rfl⟩
  · exact ⟨{ status := .noData }, by simp [responseFits], .latches rfl⟩
  · exact ⟨{ status := .invalidArgument }, by simp [responseFits], .latches rfl⟩
  · exact ⟨answer w, hfit w, .latches rfl⟩

/-- Every operation that goes on has one of these effects, with latches that fit. -/
theorem exec_effect {i : Instr} {s t : State} (h : exec i s = .next t) : ∃ r, responseFits r ∧ Effect i s t r := by
  cases i with
  | crcInit =>
    cases h
    exact ⟨{ status := .ok, rbyte := [crcSeed] }, by simp [responseFits], .accumulator crcSeed rfl rfl⟩
  | crcFeed bytes =>
    cases h
    exact ⟨{ status := .ok, rbyte := [crcFeed s.acc bytes] }, by simp [responseFits], .accumulator _ rfl rfl⟩
  | crcBuf bytes =>
    cases h
    exact ⟨{ status := .ok, rbyte := [crc8 bytes] }, by simp [responseFits], .accumulator _ rfl rfl⟩
  | frmEnc bytes =>
    simp only [exec, execFrmEnc] at h
    split at h
    · next hl =>
      cases h
      refine ⟨_, ?_, .latches rfl⟩
      simp [frmEncLenOk, Config.maxChunks] at hl
      simp only [responseFits, flatMap_frame_length, wordsOf_length, List.length_nil]
      omega
    · cases h
      exact ⟨{ status := .invalidArgument }, by simp [responseFits], .latches rfl⟩
  | frmChk hi lo check =>
    simp only [exec, execFrmChk] at h
    split at h
    · cases h
      exact ⟨_, by simp [responseFits], .latches rfl⟩
    · cases h
      exact ⟨_, by simp [responseFits], .latches rfl⟩
  | valBuf bytes =>
    simp only [exec, execValBuf] at h
    split at h
    · cases h
      exact ⟨{ status := .invalidArgument }, by simp [responseFits], .invalidated bytes rfl rfl⟩
    · next hl =>
      have hl : bytes.length ≠ 0 ∧ bytes.length % 3 = 0 ∧ bytes.length ≤ 48 := by
        simpa [valBufLenOk, Config.maxChunks, and_assoc] using hl
      split at h
      · cases h
        refine ⟨_, ?_, .committed bytes ((chunksOf bytes).map chunkWord) rfl ?_ ?_ rfl⟩
        · simp only [responseFits, List.length_map, chunksOf_length, List.length_nil]
          omega
        · simp only [List.length_map, chunksOf_length]
          omega
        · simp only [List.length_map, chunksOf_length]
          omega
      · cases h
        exact ⟨{ status := .crcMismatch }, by simp [responseFits], .invalidated bytes rfl rfl⟩
  | wbufRd =>
    simp only [exec, execWbufRd] at h
    split at h
    · cases h
      exact ⟨{ status := .noData }, by simp [responseFits], .latches rfl⟩
    · obtain ⟨w, hw, rfl⟩ := (respondWithWords_eq_next_iff _ _ _ _).mp h
      exact ⟨_, by simpa [responseFits] using committedWords_some_le hw, .latches rfl⟩
  | cvtMc raw | cvtNc raw | cvtTps raw | cvtRh raw | cvtT raw | cvtVoc raw | cvtNox raw | cvtRvoc raw | cvtRnox raw
  | cvtRrh raw | cvtRt raw =>
    cases h
    exact ⟨_, by simp [responseFits], .latches rfl⟩
  | decMv50 =>
    exact decodeRecord_effect (s.variant == .sen50) (mv50Record Config.params) (fun w => by simp [responseFits, mv50Record, massValues]) h
  | decMv54 =>
    exact decodeRecord_effect (s.variant == .sen54) (mv54Record Config.params) (fun w => by simp [responseFits, mv54Record, massValues]) h
  | decMv55 =>
    exact decodeRecord_effect (s.variant == .sen55) (mv55Record Config.params) (fun w => by simp [responseFits, mv55Record, massValues]) h
  | decPm =>
    exact decodeRecord_effect true (pmRecord Config.params) (fun w => by simp [responseFits, pmRecord]) h
  | decRaw =>
    exact decodeRecord_effect (inRawVariants Config.params s.variant) (rawRecord Config.params) (fun w => by simp [responseFits, rawRecord]) h
  | decRdy =>
    exact decodeRecord_effect true rdyRecord (fun w => by simp [responseFits, rdyRecord]) h
  | decSts =>
    exact decodeRecord_effect true stsRecord (fun w => by simp [responseFits, stsRecord]) h
  | decStr =>
    exact decodeRecord_effect true strRecord (fun w => by simp [responseFits, strRecord, List.length_flatMap]) h
  | decCmp =>
    exact decodeRecord_effect true cmpRecord (fun w => by simp [responseFits, cmpRecord]) h
  | cmpEnc x0 x1 x2 =>
    simp only [exec, execCmpEnc, compEncode] at h
    split at h
    · cases h
      exact ⟨{ status := .invalidArgument }, by simp [responseFits], .latches rfl⟩
    · split at h
      · cases h
        exact ⟨_, by simp [responseFits, compWords, frame], .latches rfl⟩
      · cases h
        exact ⟨{ status := .invalidArgument }, by simp [responseFits], .latches rfl⟩
  | cfgSen50 =>
    cases h
    exact ⟨_, by simp [responseFits], .variant .sen50 (.inl ⟨rfl, rfl⟩) rfl⟩
  | cfgSen54 =>
    cases h
    exact ⟨_, by simp [responseFits], .variant .sen54 (.inr (.inl ⟨rfl, rfl⟩)) rfl⟩
  | cfgSen55 =>
    cases h
    exact ⟨_, by simp [responseFits], .variant .sen55 (.inr (.inr ⟨rfl, rfl⟩)) rfl⟩
  | cfgRdv =>
    cases h
    exact ⟨_, by simp [responseFits], .latches rfl⟩

end Sys2Proof.Machine
end

