-- ==== Sys2Proof/Laws/Float.lean ====
section
/-! SUPPORT. What the roundings and the binary32 helpers do, each said once. -/

namespace Sys2Proof.Machine

/-! ## Rounding to an integer -/

/-- `roundNat` is within half a unit. -/
theorem roundNat_near (mode : Config.Rounding) (a : Nat) {d : Nat} (hd : 0 < d) :
    2 * a ≤ 2 * (d * roundNat mode a d) + d ∧ 2 * (d * roundNat mode a d) ≤ 2 * a + d := by
  have hdiv := Nat.div_add_mod a d
  have hmod := Nat.mod_lt a hd
  unfold roundNat
  by_cases h1 : 2 * (a % d) < d
  · simp only [h1, if_true]
    omega
  · by_cases h2 : d < 2 * (a % d)
    · simp only [h1, h2, if_true, if_false, Nat.mul_add]
      omega
    · simp only [h1, h2, if_false]
      cases mode with
      | halfAway =>
        simp only [Nat.mul_add]
        omega
      | halfEven =>
        rcases Nat.mod_two_eq_zero_or_one (a / d) with h | h <;>
        · simp only [h, Nat.mul_add]
          omega

/-- On an exact tie, the even mode gives an even number. -/
theorem roundNat_halfEven_tie {a d : Nat} (h : 2 * (a % d) = d) : roundNat .halfEven a d % 2 = 0 := by
  unfold roundNat
  simp only [h, lt_irrefl, if_false]
  omega

/-- On an exact tie, the away mode rounds up in magnitude. -/
theorem roundNat_halfAway_tie {a d : Nat} (h : 2 * (a % d) = d) : roundNat .halfAway a d = a / d + 1 := by
  unfold roundNat
  simp only [h, lt_irrefl, if_false]

/-- An integer rounds to itself. -/
theorem roundNat_mul (mode : Config.Rounding) (m : Nat) {d : Nat} (hd : 0 < d) : roundNat mode (m * d) d = m := by
  simp [roundNat, Nat.mul_div_cancel m hd, hd]

/-! ## binary32 -/

/-- The magnitude of a pattern below infinity, from its number. -/
theorem mag32_ofNat {b : Nat} (h : b < 0x80000000) :
    mag32 (BitVec.ofNat 32 b) =
      if b / 2 ^ 23 = 0 then b else (2 ^ 23 + b % 2 ^ 23) * 2 ^ (b / 2 ^ 23 - 1) := by
  have he : (expField (BitVec.ofNat 32 b)).toNat = b / 2 ^ 23 := by
    simp [expField, BitVec.extractLsb'_toNat, Nat.shiftRight_eq_div_pow]
    omega
  have hf : (fracField (BitVec.ofNat 32 b)).toNat = b % 2 ^ 23 := by
    simp [fracField, BitVec.extractLsb'_toNat]
  have hz : expField (BitVec.ofNat 32 b) = 0 ↔ b / 2 ^ 23 = 0 := by
    rw [← he, BitVec.toNat_eq]
    rfl
  unfold mag32
  by_cases h0 : b / 2 ^ 23 = 0
  · rw [if_pos (hz.mpr h0), if_pos h0, hf]
    omega
  · rw [if_neg (fun hx => h0 (hz.mp hx)), if_neg h0, hf, he]

/-- A significand `m` of quantum `2^u` is the pattern number `u * 2^23 + m`, a carry to `2^24` included: its magnitude is
`m * 2^u`. -/
theorem mag32_significand {u m : Nat} (hm : m ≤ 2 ^ 24) (hu : u = 0 ∨ 2 ^ 23 ≤ m) (hb : u * 2 ^ 23 + m < 0x7F800000) :
    mag32 (BitVec.ofNat 32 (u * 2 ^ 23 + m)) = m * 2 ^ u := by
  rw [mag32_ofNat (by omega)]
  rcases Nat.lt_or_ge m (2 ^ 23) with h | h
  · have h0 : u = 0 := by omega
    subst h0
    have : (0 * 2 ^ 23 + m) / 2 ^ 23 = 0 := by omega
    rw [if_pos this]
    simp
  · rcases Nat.lt_or_eq_of_le hm with h24 | h24
    · have hq : (u * 2 ^ 23 + m) / 2 ^ 23 = u + 1 := by omega
      have hr : 2 ^ 23 + (u * 2 ^ 23 + m) % 2 ^ 23 = m := by omega
      rw [hq, if_neg (by omega), hr]
      simp
    · have hq : (u * 2 ^ 23 + m) / 2 ^ 23 = u + 2 := by omega
      have hr : (u * 2 ^ 23 + m) % 2 ^ 23 = 0 := by omega
      rw [hq, if_neg (by omega), hr, h24, show u + 2 - 1 = u + 1 from rfl, pow_succ]
      ring

@[simp] theorem rne32_zero (d : Nat) : rne32 ⟨0, d⟩ = 0 := by
  simp [rne32, rneBits, roundNat]

/-! ## `NAN_BITS` (R6): every legal value is a NaN pattern, and every NaN pattern is a legal value -/

theorem isNan32_nanBits (n : Config.NanPattern) : isNan32 (nanBits n) = true := by
  have hf := n.fractionLessOne.isLt
  have he : expField (nanBits n) = 0xFF := by
    ext j
    simp [expField, nanBits]
    grind
  have hr : fracField (nanBits n) = BitVec.ofNat 23 (n.fractionLessOne.val + 1) := by
    ext j
    simp [fracField, nanBits]
    grind
  have hz : BitVec.ofNat 23 (n.fractionLessOne.val + 1) ≠ 0 := by
    intro h
    have := congrArg BitVec.toNat h
    simp at this
    omega
  simpa [isNan32, he, hr] using hz

theorem exists_nanBits_of_isNan32 {p : Bits32} (h : isNan32 p = true) : ∃ n, nanBits n = p := by
  simp only [isNan32, Bool.and_eq_true, beq_iff_eq, bne_iff_ne, ne_eq] at h
  obtain ⟨he, hf⟩ := h
  have hpos : (fracField p).toNat ≠ 0 := fun hz => hf (by rw [BitVec.toNat_eq]; simpa using hz)
  have hlt := (fracField p).isLt
  refine ⟨⟨signBit p, ⟨(fracField p).toNat - 1, by omega⟩⟩, ?_⟩
  have hb : BitVec.ofNat 23 ((fracField p).toNat - 1 + 1) = fracField p := by
    rw [Nat.sub_add_cancel (by omega)]
    simp
  simp only [nanBits, hb, ← he]
  ext j
  simp [expField, fracField, signBit]
  grind

end Sys2Proof.Machine
end

