-- ==== Sys2Proof/Laws/PerInstr.lean ====
section
/-! SUPPORT. Statements made per instruction. `OperandCount`: the pair a well-formed operation encodes to keeps the host's duty,
`DIN` has exactly `LEN` bytes (`30_encoding.md` rules R70, R77). -/

namespace Sys2Proof.Laws.OperandCount

/-- The encoded pair of a well-formed operation has `LEN` operand bytes. -/
def Statement (i : Instr) : Prop :=
  i.wf = true → (encode i).2.length = (lenField (encode i).1).toNat

/-- The count survives the 8-bit field where it fits. -/
theorem of_fits {i : Instr} (h : (operandBytes i).length ≤ 255) : (encode i).2.length = (lenField (encode i).1).toNat := by
  simp only [encode, lenField_mkDesc, BitVec.toNat_ofNat]
  omega

theorem crcInit : Statement (.crcInit) :=
  fun _ => of_fits (by simp [operandBytes])

theorem crcFeed (bytes : List Byte) : Statement (.crcFeed bytes) :=
  fun h => of_fits (of_decide_eq_true h)

theorem crcBuf (bytes : List Byte) : Statement (.crcBuf bytes) :=
  fun h => of_fits (of_decide_eq_true h)

theorem frmEnc (bytes : List Byte) : Statement (.frmEnc bytes) :=
  fun h => of_fits (of_decide_eq_true h)

theorem frmChk (hi lo check : Byte) : Statement (.frmChk hi lo check) :=
  fun _ => of_fits (by simp [operandBytes])

theorem valBuf (bytes : List Byte) : Statement (.valBuf bytes) :=
  fun h => of_fits (of_decide_eq_true h)

theorem wbufRd : Statement (.wbufRd) :=
  fun _ => of_fits (by simp [operandBytes])

theorem cvtMc (raw : Word) : Statement (.cvtMc raw) :=
  fun _ => of_fits (by simp [operandBytes])

theorem cvtNc (raw : Word) : Statement (.cvtNc raw) :=
  fun _ => of_fits (by simp [operandBytes])

theorem cvtTps (raw : Word) : Statement (.cvtTps raw) :=
  fun _ => of_fits (by simp [operandBytes])

theorem cvtRh (raw : Word) : Statement (.cvtRh raw) :=
  fun _ => of_fits (by simp [operandBytes])

theorem cvtT (raw : Word) : Statement (.cvtT raw) :=
  fun _ => of_fits (by simp [operandBytes])

theorem cvtVoc (raw : Word) : Statement (.cvtVoc raw) :=
  fun _ => of_fits (by simp [operandBytes])

theorem cvtNox (raw : Word) : Statement (.cvtNox raw) :=
  fun _ => of_fits (by simp [operandBytes])

theorem cvtRvoc (raw : Word) : Statement (.cvtRvoc raw) :=
  fun _ => of_fits (by simp [operandBytes])

theorem cvtRnox (raw : Word) : Statement (.cvtRnox raw) :=
  fun _ => of_fits (by simp [operandBytes])

theorem cvtRrh (raw : Word) : Statement (.cvtRrh raw) :=
  fun _ => of_fits (by simp [operandBytes])

theorem cvtRt (raw : Word) : Statement (.cvtRt raw) :=
  fun _ => of_fits (by simp [operandBytes])

theorem decMv50 : Statement (.decMv50) :=
  fun _ => of_fits (by simp [operandBytes])

theorem decMv54 : Statement (.decMv54) :=
  fun _ => of_fits (by simp [operandBytes])

theorem decMv55 : Statement (.decMv55) :=
  fun _ => of_fits (by simp [operandBytes])

theorem decPm : Statement (.decPm) :=
  fun _ => of_fits (by simp [operandBytes])

theorem decRaw : Statement (.decRaw) :=
  fun _ => of_fits (by simp [operandBytes])

theorem decRdy : Statement (.decRdy) :=
  fun _ => of_fits (by simp [operandBytes])

theorem decSts : Statement (.decSts) :=
  fun _ => of_fits (by simp [operandBytes])

theorem decStr : Statement (.decStr) :=
  fun _ => of_fits (by simp [operandBytes])

theorem decCmp : Statement (.decCmp) :=
  fun _ => of_fits (by simp [operandBytes])

theorem cmpEnc (x0 x1 x2 : Bits32) : Statement (.cmpEnc x0 x1 x2) :=
  fun _ => of_fits (by simp [operandBytes, Machine.bytes32])

theorem cfgSen50 : Statement (.cfgSen50) :=
  fun _ => of_fits (by simp [operandBytes])

theorem cfgSen54 : Statement (.cfgSen54) :=
  fun _ => of_fits (by simp [operandBytes])

theorem cfgSen55 : Statement (.cfgSen55) :=
  fun _ => of_fits (by simp [operandBytes])

theorem cfgRdv : Statement (.cfgRdv) :=
  fun _ => of_fits (by simp [operandBytes])

/-- All of them at once. -/
theorem all (i : Instr) : Statement i := by
  cases i with
  | crcInit => exact OperandCount.crcInit
  | crcFeed bytes => exact OperandCount.crcFeed bytes
  | crcBuf bytes => exact OperandCount.crcBuf bytes
  | frmEnc bytes => exact OperandCount.frmEnc bytes
  | frmChk hi lo check => exact OperandCount.frmChk hi lo check
  | valBuf bytes => exact OperandCount.valBuf bytes
  | wbufRd => exact OperandCount.wbufRd
  | cvtMc raw => exact OperandCount.cvtMc raw
  | cvtNc raw => exact OperandCount.cvtNc raw
  | cvtTps raw => exact OperandCount.cvtTps raw
  | cvtRh raw => exact OperandCount.cvtRh raw
  | cvtT raw => exact OperandCount.cvtT raw
  | cvtVoc raw => exact OperandCount.cvtVoc raw
  | cvtNox raw => exact OperandCount.cvtNox raw
  | cvtRvoc raw => exact OperandCount.cvtRvoc raw
  | cvtRnox raw => exact OperandCount.cvtRnox raw
  | cvtRrh raw => exact OperandCount.cvtRrh raw
  | cvtRt raw => exact OperandCount.cvtRt raw
  | decMv50 => exact OperandCount.decMv50
  | decMv54 => exact OperandCount.decMv54
  | decMv55 => exact OperandCount.decMv55
  | decPm => exact OperandCount.decPm
  | decRaw => exact OperandCount.decRaw
  | decRdy => exact OperandCount.decRdy
  | decSts => exact OperandCount.decSts
  | decStr => exact OperandCount.decStr
  | decCmp => exact OperandCount.decCmp
  | cmpEnc x0 x1 x2 => exact OperandCount.cmpEnc x0 x1 x2
  | cfgSen50 => exact OperandCount.cfgSen50
  | cfgSen54 => exact OperandCount.cfgSen54
  | cfgSen55 => exact OperandCount.cfgSen55
  | cfgRdv => exact OperandCount.cfgRdv

end Sys2Proof.Laws.OperandCount
end

