-- ==== Sys2Proof/Machine/SensorCommands.lean ====
section
/-! DEFINITION. The sensor's command words, transcribed from `30_encoding.md` rule R90 for the reader. The block does not
decode them and no meaning reads this table: the host sends a word to the sensor and gives the response to VAL.BUF
(`41_validator.md` rule R123). -/

namespace Sys2Proof.Machine

/-- One row of R90: the command, its word, the operations that serve it, and the response length in bytes where the spec gives
one (none: "not in source"; 0: the command has no response). -/
structure SensorCommand where
  name           : String
  word           : Word
  servedBy       : List String
  responseLength : Option Nat
  deriving DecidableEq, Repr

/-- The two wire bytes of a command word, big-endian and with no CRC (R90). -/
def commandBytes (c : SensorCommand) : List Byte := [hi8 c.word, lo8 c.word]

/-- The measurement commands of R90. -/
def measurementCommands : List SensorCommand :=
  [⟨"start-measurement", 0x0021, [], some 0⟩, ⟨"start-measurement-no-PM", 0x0037, [], some 0⟩,
   ⟨"stop-measurement", 0x0104, [], some 0⟩, ⟨"data-ready-flag", 0x0202, ["DEC.RDY"], some 3⟩,
   ⟨"measured-values", 0x03C4, ["DEC.MV50", "DEC.MV54", "DEC.MV55"], some 24⟩,
   ⟨"measured-PM-values", 0x0413, ["DEC.PM"], some 30⟩, ⟨"measured-raw-values", 0x03D2, ["DEC.RAW"], some 12⟩]

/-- The tuning and state commands of R90. -/
def tuningCommands : List SensorCommand :=
  [⟨"temperature-compensation", 0x60B2, ["CMP.ENC", "DEC.CMP"], some 9⟩, ⟨"warm-start", 0x60C6, [], none⟩,
   ⟨"VOC-tuning", 0x60D0, [], none⟩, ⟨"NOx-tuning", 0x60E1, [], none⟩, ⟨"RHT-acceleration-mode", 0x60F7, [], none⟩,
   ⟨"VOC-state", 0x6181, [], none⟩, ⟨"start-fan-cleaning", 0x5607, [], some 0⟩,
   ⟨"auto-cleaning-interval", 0x8004, [], none⟩]

/-- The identity, status and reset commands of R90. -/
def identityCommands : List SensorCommand :=
  [⟨"product-name", 0xD014, ["DEC.STR"], some 48⟩, ⟨"serial-number", 0xD033, ["DEC.STR"], some 48⟩,
   ⟨"version", 0xD100, [], none⟩, ⟨"device-status", 0xD206, ["DEC.STS"], some 6⟩,
   ⟨"clear-device-status", 0xD210, [], some 0⟩, ⟨"reset", 0xD304, [], some 0⟩]

/-- The whole table of R90. -/
def sensorCommands : List SensorCommand := measurementCommands ++ tuningCommands ++ identityCommands

end Sys2Proof.Machine
end

