-- ==== Sys2Proof/Tests/Slice0.lean ====
section
/-! SUPPORT. Tests of the model against `spec/95_test_vectors.md` (each names its vector) and the spec's tables, the ill-formed
terms the well-formedness check refuses, and, for every statement with hypotheses, a concrete state that meets them. -/

namespace Sys2Proof.Tests

set_option Elab.async false

open Sys2Proof.Machine Sys2Proof.Safety Sys2Proof.Claims

/-! ## Helpers -/

/-- The next state of an outcome, where it goes on. -/
def after : Result → Option State
  | .next t => some t
  | .fault _ => none
  | .refused _ => none

/-- A state after reset with a variant selected and words committed. -/
def bench (v : Variant) (words : List Word) : State :=
  commit words { State.reset with variant := v }

/-- The words of vector V-D1. -/
def vD1 : List Word := [0x0064, 0x0096, 0x00C8, 0x00FA, 0x1388, 0x11F8, 0x03E8, 0x000A]

/-- The words of vector V-D4. -/
def vD4 : List Word := [0x0064, 0x0096, 0x00C8, 0x00FA, 0x012C, 0x0140, 0x014A, 0x014F, 0x0150, 0x05DC]

/-- The words of vector V-D8. -/
def vD8 : List Word := [0x5345, 0x4E35, 0x3500] ++ List.replicate 13 0x0000

/-- 256 operand bytes: one more than `LEN` can count. -/
def tooMany : List Byte := List.replicate 256 0

/-! ## The well-formedness check refuses what no descriptor stands for (R71) -/

theorem test_wf_refuses_long_crcFeed : (Instr.crcFeed tooMany).wf = false := by decide +kernel

theorem test_wf_refuses_long_crcBuf : (Instr.crcBuf tooMany).wf = false := by decide +kernel

theorem test_wf_refuses_long_frmEnc : (Instr.frmEnc tooMany).wf = false := by decide +kernel

theorem test_wf_refuses_long_valBuf : (Instr.valBuf tooMany).wf = false := by decide +kernel

theorem test_wf_accepts_255 : (Instr.crcFeed (List.replicate 255 0)).wf = true := by decide +kernel

/-! ## Decoding: every constructor, from a descriptor written out from R73 to R76 (bits OP SEL LEN) -/

theorem test_decode_crcInit : decode 0b0001000000000000 [] = .ok .crcInit := by decide +kernel

theorem test_decode_crcFeed : decode 0b0010000000000001 [0xBE] = .ok (.crcFeed [0xBE]) := by decide +kernel

theorem test_decode_crcBuf : decode 0b0011000000000010 [0x00, 0x21] = .ok (.crcBuf [0x00, 0x21]) := by decide +kernel

theorem test_decode_frmEnc : decode 0b0100000000000010 [0x01, 0x2C] = .ok (.frmEnc [0x01, 0x2C]) := by decide +kernel

theorem test_decode_frmChk : decode 0b0101000000000011 [0x00, 0x64, 0xFE] = .ok (.frmChk 0x00 0x64 0xFE) := by decide +kernel

theorem test_decode_valBuf : decode 0b0110000000000011 [0xFF, 0xFF, 0xAC] = .ok (.valBuf [0xFF, 0xFF, 0xAC]) := by decide +kernel

theorem test_decode_wbufRd : decode 0b0111000000000000 [] = .ok .wbufRd := by decide +kernel

theorem test_decode_cvtMc : decode 0b1000000000000010 [0x12, 0x34] = .ok (.cvtMc 0x1234) := by decide +kernel

theorem test_decode_cvtNc : decode 0b1000000100000010 [0x12, 0x34] = .ok (.cvtNc 0x1234) := by decide +kernel

theorem test_decode_cvtTps : decode 0b1000001000000010 [0x12, 0x34] = .ok (.cvtTps 0x1234) := by decide +kernel

theorem test_decode_cvtRh : decode 0b1000001100000010 [0x12, 0x34] = .ok (.cvtRh 0x1234) := by decide +kernel

theorem test_decode_cvtT : decode 0b1000010000000010 [0x12, 0x34] = .ok (.cvtT 0x1234) := by decide +kernel

theorem test_decode_cvtVoc : decode 0b1000010100000010 [0x12, 0x34] = .ok (.cvtVoc 0x1234) := by decide +kernel

theorem test_decode_cvtNox : decode 0b1000011000000010 [0x12, 0x34] = .ok (.cvtNox 0x1234) := by decide +kernel

theorem test_decode_cvtRvoc : decode 0b1000011100000010 [0x12, 0x34] = .ok (.cvtRvoc 0x1234) := by decide +kernel

theorem test_decode_cvtRnox : decode 0b1000100000000010 [0x12, 0x34] = .ok (.cvtRnox 0x1234) := by decide +kernel

theorem test_decode_cvtRrh : decode 0b1000100100000010 [0x12, 0x34] = .ok (.cvtRrh 0x1234) := by decide +kernel

theorem test_decode_cvtRt : decode 0b1000101000000010 [0x12, 0x34] = .ok (.cvtRt 0x1234) := by decide +kernel

theorem test_decode_decMv50 : decode 0b1001000000000000 [] = .ok .decMv50 := by decide +kernel

theorem test_decode_decMv54 : decode 0b1001000100000000 [] = .ok .decMv54 := by decide +kernel

theorem test_decode_decMv55 : decode 0b1001001000000000 [] = .ok .decMv55 := by decide +kernel

theorem test_decode_decPm : decode 0b1001001100000000 [] = .ok .decPm := by decide +kernel

theorem test_decode_decRaw : decode 0b1001010000000000 [] = .ok .decRaw := by decide +kernel

theorem test_decode_decRdy : decode 0b1001010100000000 [] = .ok .decRdy := by decide +kernel

theorem test_decode_decSts : decode 0b1001011000000000 [] = .ok .decSts := by decide +kernel

theorem test_decode_decStr : decode 0b1001011100000000 [] = .ok .decStr := by decide +kernel

theorem test_decode_decCmp : decode 0b1001100000000000 [] = .ok .decCmp := by decide +kernel

theorem test_decode_cmpEnc : decode 0b1010000000001100 [0x3F, 0xC0, 0x00, 0x00, 0x3C, 0x49, 0x85, 0xF0, 0x44, 0x16, 0x2C, 0xCD] = .ok (.cmpEnc 0x3FC00000 0x3C4985F0 0x44162CCD) := by decide +kernel

theorem test_decode_cfgSen50 : decode 0b1011000000000000 [] = .ok .cfgSen50 := by decide +kernel

theorem test_decode_cfgSen54 : decode 0b1011000100000000 [] = .ok .cfgSen54 := by decide +kernel

theorem test_decode_cfgSen55 : decode 0b1011001000000000 [] = .ok .cfgSen55 := by decide +kernel

theorem test_decode_cfgRdv : decode 0b1100000000000000 [] = .ok .cfgRdv := by decide +kernel

/-- Vectors V-ILL1, V-ILL6, V-ILL10, V-ILL12 and V-ILL15: reserved by `OP` or `SEL`. -/
theorem test_decode_reserved_sel :
    decode 0x0000 [] = .error .reservedOp ∧ decode 0x2100 [] = .error .reservedSel ∧
    decode 0x8B02 [0, 0] = .error .reservedSel ∧ decode 0x9900 [] = .error .reservedSel ∧
    decode 0xB300 [] = .error .reservedSel := by decide +kernel

/-- Vectors V-ILL5, V-ILL7, V-ILL11, V-ILL14: reserved by `LEN`. -/
theorem test_decode_reserved_len :
    decode 0x1001 [0] = .error .reservedLen ∧ decode 0x5002 [0, 0] = .error .reservedLen ∧
    decode 0x8003 [0, 0, 0] = .error .reservedLen ∧
    decode 0xA00B (List.replicate 11 0) = .error .reservedLen := by decide +kernel

/-- The opcode table's numbering: operand bytes stand above the descriptor. -/
theorem test_decode_table_word :
    decodeTableWord 16 0x8302 = some (.cvtRh 0) ∧ decodeTableWord 32 0x88138302 = some (.cvtRh 0x1388) ∧
    decodeTableWord 16 0x2002 = some (.crcFeed [0, 0]) ∧ decodeTableWord 16 0xD000 = none := by decide +kernel

/-! ## Operations, from `95_test_vectors.md` -/

/-- V-CRC1: ACC from another value. -/
theorem test_crcInit : (after (exec .crcInit { State.reset with acc := 0x5A })).map (fun t => (t.acc, t.rbyte)) =
    some (0xFF, [0xFF]) := by decide +kernel

/-- V-CRC3 and V-CRC4. -/
theorem test_crcFeed : (after (exec (.crcFeed [0xBE]) State.reset)).map (·.acc) = some 0x0C ∧
    (after (exec (.crcFeed [0xEF]) { State.reset with acc := 0x0C })).map (·.acc) = some 0x92 := by decide +kernel

/-- V-CRC6, V-CRC5 and V-CRC9: the earlier ACC is ignored. -/
theorem test_crcBuf :
    (after (exec (.crcBuf [0x00, 0x21]) { State.reset with acc := 0x5A })).map (·.rbyte) = some [0x36] ∧
    (after (exec (.crcBuf []) State.reset)).map (·.acc) = some 0xFF ∧
    (after (exec (.crcBuf [0xBE, 0xEF, 0x92]) State.reset)).map (·.acc) = some 0x00 := by decide +kernel

/-- P4 step 4: the CRC of a whole framed buffer. -/
theorem test_crcBuf_framed :
    (after (exec (.crcBuf [0x01, 0x2C, 0x8E, 0x00, 0x7B, 0x93, 0x02, 0x58, 0x9F]) State.reset)).map (·.acc) =
      some 0x21 := by decide +kernel

/-- V-FRM2. -/
theorem test_frmEnc : (after (exec (.frmEnc [0xFF, 0xFF, 0x7F, 0xFF]) State.reset)).map (fun t => (t.rbyte, t.rword)) =
    some ([0xFF, 0xFF, 0xAC, 0x7F, 0xFF, 0x8F], [0xFFFF, 0x7FFF]) := by decide +kernel

/-- V-FRM4, V-FRM5, V-FRM6: illegal counts. -/
theorem test_frmEnc_counts : (after (exec (.frmEnc []) State.reset)).map (·.status) = some 2 ∧
    (after (exec (.frmEnc [0x01]) State.reset)).map (·.status) = some 2 ∧
    (after (exec (.frmEnc (List.replicate 34 0)) State.reset)).map (·.status) = some 2 ∧
    (after (exec (.frmEnc (List.replicate 32 0)) State.reset)).map (·.status) = some 0 := by decide +kernel

/-- V-FRM7 and V-FRM8. -/
theorem test_frmChk :
    (after (exec (.frmChk 0x00 0x64 0xFE) State.reset)).map (fun t => (t.status, t.rword, t.rbyte, t.rflag)) =
      some (0, [0x0064], [0xFE], true) ∧
    (after (exec (.frmChk 0x00 0x64 0xFF) State.reset)).map (fun t => (t.status, t.rword, t.rbyte, t.rflag)) =
      some (1, [], [0xFE], false) := by decide +kernel

/-- V-VAL4. -/
theorem test_valBuf :
    (after (exec (.valBuf [0x00, 0x64, 0xFE, 0x00, 0x96, 0x1E]) State.reset)).map
        (fun t => (t.wvalid, t.wcount, t.rword, t.rflag)) =
      some (true, 2, [0x0064, 0x0096], true) ∧
    (after (exec (.valBuf [0x00, 0x64, 0xFE, 0x00, 0x96, 0x1E]) State.reset)).map (fun t => (t.wbuf[1], t.wbuf[2])) =
      some (some 0x0096, none) := by decide +kernel

/-- V-VAL6: a bad last chunk destroys the earlier commit. -/
theorem test_valBuf_mismatch :
    (after (exec (.valBuf [0x00, 0x64, 0xFE, 0x00, 0x96, 0x1F]) (bench .sen55 vD1))).map
        (fun t => (t.status, t.wvalid, t.wcount, t.wbuf[0], t.rword)) =
      some (1, false, 0, none, []) := by decide +kernel

/-- V-VAL5, and V-VAL1 without a commit. -/
theorem test_wbufRd : (after (exec .wbufRd (bench .none [0x0064, 0x0096]))).map (·.rword) = some [0x0064, 0x0096] ∧
    (after (exec .wbufRd State.reset)).map (·.status) = some 4 := by decide +kernel

/-- V-CVT2, V-CVT4: 0x7FFF is no sentinel for an unsigned kind. -/
theorem test_cvtMc : (after (exec (.cvtMc 0x0001) State.reset)).map (·.rval) = some [0x3DCCCCCD] ∧
    (after (exec (.cvtMc 0x7FFF) State.reset)).map (·.rval) = some [0x454CCB33] := by decide +kernel

/-- V-CVT7 and R142. -/
theorem test_cvtNc : (after (exec (.cvtNc 0x012C) State.reset)).map (·.rval) = some [0x41F00000] ∧
    (after (exec (.cvtNc 0xFFFE) State.reset)).map (·.rval) = some [0x45CCCB33] := by decide +kernel

/-- V-CVT9 and V-CVT11. -/
theorem test_cvtTps : (after (exec (.cvtTps 0x0001) State.reset)).map (·.rval) = some [0x3A83126F] ∧
    (after (exec (.cvtTps 0xFFFE) State.reset)).map (·.rval) = some [0x42831168] := by decide +kernel

/-- V-CVT14 and V-CVT15: 0xFFFF is -1 here. -/
theorem test_cvtRh : (after (exec (.cvtRh 0xFFFF) State.reset)).map (fun t => (t.rval, t.rflag)) =
      some ([0xBC23D70A], true) ∧
    (after (exec (.cvtRh 0x8000) State.reset)).map (·.rval) = some [0xC3A3D70A] := by decide +kernel

/-- V-CVT20 and V-CVT22. -/
theorem test_cvtT : (after (exec (.cvtT 0xFFFF) State.reset)).map (·.rval) = some [0xBBA3D70A] ∧
    (after (exec (.cvtT 0x7FFE) State.reset)).map (·.rval) = some [0x4323D47B] := by decide +kernel

/-- V-CVT25 and V-CVT28. -/
theorem test_cvtVoc : (after (exec (.cvtVoc 0xFFF6) State.reset)).map (·.rval) = some [0xBF800000] ∧
    (after (exec (.cvtVoc 0x7FFE) State.reset)).map (·.rval) = some [0x454CC99A] := by decide +kernel

/-- V-CVT30 and R147. -/
theorem test_cvtNox : (after (exec (.cvtNox 0x000A) State.reset)).map (·.rval) = some [0x3F800000] ∧
    (after (exec (.cvtNox 0x8000) State.reset)).map (·.rval) = some [0xC54CCCCD] := by decide +kernel

/-- V-CVT32 and V-CVT33. -/
theorem test_cvtRvoc : (after (exec (.cvtRvoc 0x7530) State.reset)).map (·.rval) = some [0x46EA6000] ∧
    (after (exec (.cvtRvoc 0x7FFF) State.reset)).map (·.rval) = some [0x46FFFE00] := by decide +kernel

/-- V-CVT36 and R149. -/
theorem test_cvtRnox : (after (exec (.cvtRnox 0x3039) State.reset)).map (·.rval) = some [0x4640E400] ∧
    (after (exec (.cvtRnox 0x0001) State.reset)).map (·.rval) = some [0x3F800000] := by decide +kernel

/-- V-CVT38 and R150. -/
theorem test_cvtRrh : (after (exec (.cvtRrh 0x1388) State.reset)).map (·.rval) = some [0x42480000] ∧
    (after (exec (.cvtRrh 0xFFFF) State.reset)).map (·.rval) = some [0xBC23D70A] := by decide +kernel

/-- V-CVT40 and R151. -/
theorem test_cvtRt : (after (exec (.cvtRt 0x11F8) State.reset)).map (·.rval) = some [0x41B80000] ∧
    (after (exec (.cvtRt 0x8000) State.reset)).map (·.rval) = some [0xC323D70A] := by decide +kernel

/-- V-CVT6, V-CVT17, V-CVT35 with the default `NAN_BITS`: the sentinels. -/
theorem test_sentinels :
    conv Config.Params.default .mc 0xFFFF = (0x7FC00000, false) ∧ conv Config.Params.default .rh 0x7FFF = (0x7FC00000, false) ∧
    conv Config.Params.default .rvoc 0xFFFF = (0x7FC00000, false) := by decide +kernel

/-- A sentinel under the machine's own parameters: `NAN_BITS`, not available. -/
theorem test_cvtMc_sentinel : (after (exec (.cvtMc 0xFFFF) State.reset)).map (fun t => (t.rval, t.rflag)) =
    some ([nanBits Config.params.nan], false) := rfl

/-- V-DEC5 (words 4 to 7 are not decoded). -/
theorem test_decMv50 : (after (exec .decMv50 (bench .sen50 vD1))).map (fun t => (t.rval, t.rflag, t.rword)) =
    some ([0x41200000, 0x41700000, 0x41A00000, 0x41C80000], true, [0x0064, 0x0096, 0x00C8, 0x00FA]) := by decide +kernel

/-- V-DEC4. -/
theorem test_decMv54 : (after (exec .decMv54 (bench .sen54 vD1))).map (fun t => (t.rval, t.rflag)) =
    some ([0x41200000, 0x41700000, 0x41A00000, 0x41C80000, 0x42480000, 0x41B80000, 0x42C80000], true) := by decide +kernel

/-- V-DEC1. -/
theorem test_decMv55 : (after (exec .decMv55 (bench .sen55 vD1))).map (fun t => (t.rval, t.rflag, t.rword)) =
    some ([0x41200000, 0x41700000, 0x41A00000, 0x41C80000, 0x42480000, 0x41B80000, 0x42C80000, 0x3F800000], true,
      vD1) := by decide +kernel

/-- V-DEC6 and V-DEC7: the gate comes before the data. V-DEC9: the count comes last. -/
theorem test_decMv55_errors : (after (exec .decMv55 (bench .sen50 vD1))).map (·.status) = some 3 ∧
    (after (exec .decMv55 State.reset)).map (·.status) = some 3 ∧
    (after (exec .decMv55 (bench .sen55 [0x0064, 0x0096]))).map (·.status) = some 2 := by decide +kernel

/-- V-DEC10. -/
theorem test_decPm : (after (exec .decPm (bench .none vD4))).map (fun t => (t.rval, t.rflag)) =
    some ([0x41200000, 0x41700000, 0x41A00000, 0x41C80000, 0x41F00000, 0x42000000, 0x42040000, 0x42060000, 0x42066666,
      0x3FC00000], true) := by decide +kernel

/-- V-DEC12 and V-DEC13 with the default `RAW_VARIANTS`. -/
theorem test_decRaw_defaults :
    (after (decRawUnder Config.Params.default (bench .sen54 [0x1388, 0x11F8, 0x7530, 0xFFFF]))).map (·.rval) =
      some [0x42480000, 0x41B80000, 0x46EA6000, 0x7FC00000] ∧
    (after (decRawUnder Config.Params.default (bench .sen50 [0x1388, 0x11F8, 0x7530, 0xFFFF]))).map (·.status) = some 3 := by
  decide +kernel

/-- DEC.RAW on NONE is gated out for every `RAW_VARIANTS` (R170). -/
theorem test_decRaw_none : (after (exec .decRaw (bench .none [0x1388, 0x11F8, 0x7530, 0xFFFF]))).map (·.status) =
    some 3 := by decide +kernel

/-- V-DEC15, V-DEC16 and V-DEC17. -/
theorem test_decRdy : (after (exec .decRdy (bench .none [0x0001]))).map (fun t => (t.rbyte, t.rflag)) = some ([0x01], true) ∧
    (after (exec .decRdy (bench .none [0x0100]))).map (fun t => (t.rbyte, t.rflag)) = some ([0x00], false) ∧
    (after (exec .decRdy (bench .none [0x0002]))).map (fun t => (t.rbyte, t.rflag)) = some ([0x02], false) := by decide +kernel

/-- V-DEC18 and V-DEC20. -/
theorem test_decSts :
    (after (exec .decSts (bench .none [0x0020, 0x0010]))).map (fun t => (t.ru32, t.rflag)) = some (0x00200010, true) ∧
    (after (exec .decSts (bench .none [0x0000, 0x0100]))).map (fun t => (t.ru32, t.rflag)) = some (0x00000100, false) := by
  decide +kernel

/-- V-DEC22. -/
theorem test_decStr : (after (exec .decStr (bench .none vD8))).map (·.rbyte) =
    some ([0x53, 0x45, 0x4E, 0x35, 0x35] ++ List.replicate 27 0x00) := by decide +kernel

/-- V-DEC23 and V-DEC24. -/
theorem test_decCmp :
    (after (exec .decCmp (bench .none [0x012C, 0x007B, 0x0258]))).map (·.rval) =
      some [0x3FC00000, 0x3C4985F0, 0x44160000] ∧
    (after (exec .decCmp (bench .none [0xFE0C, 0x0271, 0x0000]))).map (·.rval) =
      some [0xC0200000, 0x3D800000, 0x00000000] := by decide +kernel

/-- V-CMP1 and V-CMP7: no tie, so every `COMP_ROUNDING` gives the same words. -/
theorem test_cmpEnc :
    (after (exec (.cmpEnc 0x3FC00000 0x3C4985F0 0x44162CCD) State.reset)).map (fun t => (t.rword, t.rbyte)) =
      some ([0x012C, 0x007B, 0x0258], [0x01, 0x2C, 0x8E, 0x00, 0x7B, 0x93, 0x02, 0x58, 0x9F]) ∧
    (after (exec (.cmpEnc 0xC323D70A 0xC051B717 0x4640E400) State.reset)).map (·.rword) =
      some [0x8000, 0x8000, 0x3039] := by decide +kernel

/-- V-CMP9 to V-CMP14, rejected inputs; V-CMP3 and V-CMP4, ties under both rules. -/
theorem test_cmpEnc_rejects_and_ties :
    (after (exec (.cmpEnc 0x43480000 0 0) State.reset)).map (·.status) = some 2 ∧
    (after (exec (.cmpEnc 0 0x4051B717 0) State.reset)).map (·.status) = some 2 ∧
    (after (exec (.cmpEnc 0 0 0x47800000) State.reset)).map (·.status) = some 2 ∧
    (after (exec (.cmpEnc 0 0 0xBF800000) State.reset)).map (·.status) = some 2 ∧
    (after (exec (.cmpEnc 0x7FC00000 0 0) State.reset)).map (·.status) = some 2 ∧
    (after (exec (.cmpEnc 0 0x7F800000 0) State.reset)).map (·.status) = some 2 ∧
    (compEncode Config.Params.default 0x3D800000 0x3D000000 0x477FFF00 State.reset).rword = [0x000D, 0x0139, 0xFFFF] ∧
    (compEncode { Config.Params.default with compRounding := .halfEven } 0xBD800000 0xBD000000 0xBF000000
      State.reset).rword = [0xFFF4, 0xFEC8, 0x0000] := by decide +kernel

/-- V-CFG2 to V-CFG4. -/
theorem test_cfgSen55 : (after (exec .cfgSen55 State.reset)).map (fun t => (t.variant, t.rbyte)) = some (.sen55, [0x02]) := by
  decide +kernel

theorem test_cfgSen54 : (after (exec .cfgSen54 (bench .sen55 []))).map (fun t => (t.variant, t.rbyte)) =
    some (.sen54, [0x01]) := by decide +kernel

theorem test_cfgSen50 : (after (exec .cfgSen50 (bench .sen54 []))).map (fun t => (t.variant, t.rbyte)) =
    some (.sen50, [0x00]) := by decide +kernel

/-- V-CFG1. -/
theorem test_cfgRdv : (after (exec .cfgRdv State.reset)).map (·.rbyte) = some [0x03] := by decide +kernel

/-- V-ILL4: a reserved descriptor with 255 bytes, one step; ACC stays. -/
theorem test_step_reserved :
    (after (step { State.reset with acc := 0x92, inputs := [.operation .host 0xF0FF (List.replicate 255 0)] })).map
        (fun t => (t.status, t.acc, t.inputs)) = some (5, 0x92, []) := by decide +kernel

/-- The first operation after reset, placed by its table word. -/
theorem test_step_fetch_word : (after (step (State.reset.withFetchWord 16 0xB200))).map (fun t => (t.variant, t.inputs)) =
    some (.sen55, []) := by decide +kernel

/-! ## The assembler (R80, R81) and the command words (R90) -/

/-- Forms of R80 and of the programs P1, P2 and P4. -/
theorem test_assemble :
    assemble "CFG.SEN55" [] = some (0xB200, []) ∧
    assemble "VAL.BUF" [0x00, 0x01, 0xB0] = some (0x6003, [0x00, 0x01, 0xB0]) ∧
    assemble "CVT.RH" [0x13, 0x88] = some (0x8302, [0x13, 0x88]) ∧ assemble "CVT.RH" [0x13] = none ∧
    assemble "CRC.FOO" [] = none := by decide +kernel

/-- The pseudo-instructions of R81, with P4's first line. -/
theorem test_expand :
    expand (.framew [0x012C]) = some (.frmEnc [0x01, 0x2C]) ∧
    expand (.cmpEnc ⟨15, 10⟩ ⟨123, 10000⟩ ⟨6007, 10⟩) = some (.cmpEnc 0x3FC00000 0x3C4985F0 0x44162CCD) ∧
    expand (.cfg .none) = none := by decide +kernel

/-- R90 has 21 rows, and a command word goes out high byte first. -/
theorem test_sensorCommands : sensorCommands.length = 21 ∧ (sensorCommands.map commandBytes)[4]? = some [0x03, 0xC4] := by
  decide +kernel

/-! ## Witnesses: every statement with hypotheses has a state and operands that meet them -/

theorem witness_ResetInput : (bench .sen55 vD1 : State).inputs = [] ∧
    ({ bench .sen55 vD1 with inputs := [.reset] } : State).inputs = .reset :: [] := by decide +kernel

theorem witness_StepRuns :
    ({ State.reset with inputs := [.operation .host 0x8302 [0x13, 0x88]] } : State).inputs =
      .operation .host 0x8302 [0x13, 0x88] :: [] ∧
    decode 0x8302 [0x13, 0x88] = .ok (.cvtRh 0x1388) := by decide +kernel

theorem witness_TableWord : decodeTableWord 16 0x2003 = some (.crcFeed [0, 0, 0]) := by decide +kernel

/-- Each way of R79 at a boundary: `OP`, unused `SEL`, `SEL` past the table, wrong `LEN`. -/
theorem witness_ReservedDescriptor :
    reserved 0x0000 ∧ reserved 0xF0FF ∧ reserved 0x2100 ∧ reserved 0x8B02 ∧ reserved 0x9900 ∧ reserved 0xB300 ∧
    reserved 0x1001 ∧ reserved 0x5002 ∧ reserved 0x8003 ∧ reserved 0xA00B ∧
    ¬ reserved 0x8A02 ∧ ¬ reserved 0x9800 ∧ ¬ reserved 0x20FF ∧ (List.replicate 255 (0 : Byte)).length = (fields 0xF0FF).2.2 := by
  refine ⟨?_, ?_, ?_, ?_, ?_, ?_, ?_, ?_, ?_, ?_, ?_, ?_, ?_, ?_⟩ <;> decide +kernel

theorem witness_DecodeFollowsTheOpcodeMap : ([0, 0] : List Byte).length = (fields 0x8A02).2.2 ∧
    decode 0x8A02 [0, 0] = .ok (.cvtRt 0) ∧ ([] : List Byte).length = (fields 0xD000).2.2 ∧ reserved 0xD000 := by decide +kernel

theorem witness_DecodeOfEncode : (Instr.crcBuf (List.replicate 255 0xFF)).wf = true := by decide +kernel

theorem witness_EncodeOfDecode : decode 0x5003 [0x80, 0x00, 0xA2] = .ok (.frmChk 0x80 0x00 0xA2) := by decide +kernel

theorem witness_WrongOperandCount : ([] : List Byte).length ≠ (fields 0x2001).2.2 ∧
    reserved 0xF001 ∧ ([] : List Byte).length ≠ (fields 0xF001).2.2 ∧
    ({ State.reset with inputs := [.operation .host 0xF001 []] } : State).inputs = .operation .host 0xF001 [] :: [] := by
  decide +kernel

theorem witness_SecondHost :
    ({ State.reset with inputs := [.operation .secondHost 0x1000 []] } : State).inputs =
      .operation .secondHost 0x1000 [] :: [] := by decide +kernel

theorem witness_WaitingBlock : State.reset.inputs = [] := by decide +kernel

/-- The largest operand count of CRC.FEED, CRC.BUF, FRM.ENC and VAL.BUF. -/
theorem witness_operand_count_255 : (List.replicate 255 (0 : Byte)).length ≤ 255 := by decide +kernel

theorem witness_FrmEnc : payloadLength 2 ∧ payloadLength 32 ∧ ¬ payloadLength 0 ∧ ¬ payloadLength 1 ∧ ¬ payloadLength 34 ∧
    ([0x01, 0x2C] : List Byte)[2 * 0]? = some 0x01 ∧ ([0x01, 0x2C] : List Byte)[2 * 0 + 1]? = some 0x2C := by decide +kernel

theorem witness_FrmChk : Claims.check 0x00 0x64 = 0xFE ∧ Claims.check 0x00 0x64 ≠ 0xFF := by decide +kernel

theorem witness_ValBuf_lengths : validLength 3 ∧ validLength 48 ∧ ¬ validLength 0 ∧ ¬ validLength 2 ∧ ¬ validLength 51 := by
  decide +kernel

theorem witness_ValBuf_bad_chunk : validLength [0x00, 0x64, (0xFF : Byte)].length ∧
    ∃ j hi lo c, chunkAt [0x00, 0x64, 0xFF] j hi lo c ∧ Claims.check hi lo ≠ c :=
  ⟨by decide +kernel, 0, 0x00, 0x64, 0xFF, by decide +kernel, by decide +kernel⟩

theorem witness_ValBuf_good_chunks : validLength [0x00, 0x64, (0xFE : Byte)].length ∧
    ∀ j hi lo c, chunkAt [0x00, 0x64, 0xFE] j hi lo c → Claims.check hi lo = c := by
  refine ⟨by decide +kernel, ?_⟩
  rintro (_ | j) hi lo c ⟨h0, h1, h2⟩
  · simp at h0 h1 h2
    subst h0 h1 h2
    decide +kernel
  · simp [Nat.mul_add] at h0

theorem witness_FramedWords : ∃ t, exec (.frmEnc [0x01, 0x2C]) State.reset = .next t ∧ t.status = 0 :=
  ⟨_, rfl, by decide +kernel⟩

theorem witness_WbufRd : State.reset.wvalid = false ∧ (bench .none [0x0064]).wvalid = true ∧
    ([0x0064] : List Word).length = (bench .none [0x0064]).wcount.toNat ∧
    ∀ (j : Nat) (w : Word), ([0x0064] : List Word)[j]? = some w → (bench .none [0x0064]).wbuf[j]? = some (some w) := by
  refine ⟨by decide +kernel, by decide +kernel, by decide +kernel, ?_⟩
  rintro (_ | j) w h
  · simpa [bench] using h
  · simp at h

theorem witness_CvtResultsStayInRange : (0xFFFE : Word) ≠ (scaling .mc).sentinel ∧ (0x8000 : Word) ≠ (scaling .rh).sentinel ∧
    (0x0001 : Word) ≠ 0 := by decide +kernel

/-- The bound itself, and a quotient exactly between two patterns. -/
theorem witness_Rne : 0 < 1 ∧ rne32 ⟨0, 10000⟩ = 0 ∧
    ((2 ^ 24 - 1) * 2 ^ 104 : Int).natAbs ≤ (2 ^ 24 - 1) * 2 ^ 104 * 1 ∧ finite 0x4B800001 ∧
    rne32 ⟨2 ^ 24 + 1, 1⟩ = 0x4B800000 ∧ value 0x4B800001 ≠ value 0x4B800000 ∧
    |value 0x4B800001 - (2 ^ 24 + 1)| = |value 0x4B800000 - (2 ^ 24 + 1)| := by
  have h0 : value 0x4B800000 = 2 ^ 24 := by decide +kernel
  have h1 : value 0x4B800001 = 2 ^ 24 + 2 := by decide +kernel
  refine ⟨by decide +kernel, by decide +kernel, by decide +kernel, by decide +kernel, by decide +kernel, ?_, ?_⟩
  · rw [h0, h1]
    norm_num
  · rw [h0, h1]
    norm_num

/-- The gates of the three shapes, open and closed. -/
theorem witness_gates : (bench .sen50 vD1).variant = .sen50 ∧ (bench .sen54 vD1).variant = .sen54 ∧
    (bench .sen55 vD1).variant = .sen55 ∧ State.reset.variant ≠ .sen50 ∧ rawGate .none = false := by decide +kernel

/-- DEC.RAW's hypotheses under a legal choice of the parameters; `RAW_VARIANTS` itself may be any subset. -/
theorem witness_raw_gate : rawGateUnder Config.Params.default .sen54 = true ∧ rawGateUnder Config.Params.default .sen50 = false ∧
    rawGateUnder Config.Params.default (bench .sen54 [0x1388, 0x11F8, 0x7530, 0xFFFF]).variant = true ∧
    (bench .sen54 [0x1388, 0x11F8, 0x7530, 0xFFFF]).wvalid = true := by decide +kernel

/-- Past the gate: no commit, a commit of another count, a commit of the count. -/
theorem witness_prelude_clauses : ({ State.reset with variant := .sen55 } : State).wvalid = false ∧
    (bench .sen55 [0x0064]).wvalid = true ∧ (bench .sen55 [0x0064]).wcount.toNat ≠ 8 ∧
    (bench .sen55 vD1).wvalid = true ∧ (bench .sen55 vD1).wcount.toNat = 8 := by decide +kernel

theorem witness_holds_8 : holds (bench .sen55 vD1) #v[0x0064, 0x0096, 0x00C8, 0x00FA, 0x1388, 0x11F8, 0x03E8, 0x000A] := by
  decide +kernel

theorem witness_holds_10 : (bench .none vD4).wcount.toNat = 10 ∧
    holds (bench .none vD4)
      #v[0x0064, 0x0096, 0x00C8, 0x00FA, 0x012C, 0x0140, 0x014A, 0x014F, 0x0150, 0x05DC] := by decide +kernel

theorem witness_holds_4 : (bench .sen54 [0x1388, 0x11F8, 0x7530, 0xFFFF]).wcount.toNat = 4 ∧
    holds (bench .sen54 [0x1388, 0x11F8, 0x7530, 0xFFFF]) #v[0x1388, 0x11F8, 0x7530, 0xFFFF] := by decide +kernel

theorem witness_holds_1 : (bench .none [0x0001]).wcount.toNat = 1 ∧ holds (bench .none [0x0001]) #v[0x0001] := by decide +kernel

theorem witness_holds_2 : (bench .none [0x0020, 0x0010]).wcount.toNat = 2 ∧
    holds (bench .none [0x0020, 0x0010]) #v[0x0020, 0x0010] := by decide +kernel

theorem witness_holds_16 : (bench .none vD8).wcount.toNat = 16 ∧
    holds (bench .none vD8) #v[0x5345, 0x4E35, 0x3500, 0, 0, 0, 0, 0, 0, 0, 0, 0, 0, 0, 0, 0] := by decide +kernel

theorem witness_holds_3 : (bench .none [0x012C, 0x007B, 0x0258]).wvalid = true ∧
    (bench .none [0x012C, 0x007B, 0x0258]).wcount.toNat = 3 ∧
    holds (bench .none [0x012C, 0x007B, 0x0258]) #v[0x012C, 0x007B, 0x0258] := by decide +kernel

/-- A state no run reaches: a commit of one word whose entry is none. -/
theorem witness_missingEntry : ({ State.reset with wvalid := true, wcount := 1 } : State).wcount.toNat = 1 ∧
    missingEntry { State.reset with wvalid := true, wcount := 1 } 1 ∧
    exec .decRdy { State.reset with wvalid := true, wcount := 1 } = .fault .wbufEntryNone := by
  refine ⟨by decide +kernel, ⟨0, by decide +kernel, fun w => ?_⟩, rfl⟩
  simp [State.reset]

/-- Both tie rules at a tie, and an input that rounds under either. -/
theorem witness_rounds : rounds .halfAway (25 / 2) 13 ∧ rounds .halfEven (25 / 2) 12 ∧
    ∀ mode, rounds mode 300 300 := by
  refine ⟨.inr ?_, .inr ?_, fun mode => .inl ?_⟩ <;> norm_num

/-- CMP.ENC's clauses: not finite; finite and in range; finite and out of range. -/
theorem witness_CmpEnc : ¬ finite 0x7FC00000 ∧ finite 0x3FC00000 ∧ finite 0x43480000 ∧ value 0x3FC00000 * 200 = 300 ∧
    value 0x43480000 * 200 = 40000 ∧ truncates (value 0x3FC00000) 1 ∧
    ∀ mode, rounds mode (value 0x43480000 * 200) 40000 := by
  have h0 : value 0x3FC00000 = 3 / 2 := by decide +kernel
  have h1 : value 0x43480000 = 200 := by decide +kernel
  refine ⟨by decide +kernel, by decide +kernel, by decide +kernel, ?_, ?_, ?_, fun mode => .inl ?_⟩
  · rw [h0]
    norm_num
  · rw [h1]
    norm_num
  · rw [h0]
    unfold truncates
    norm_num [abs_of_pos]
  · rw [h1]
    norm_num

theorem witness_CompValues : ∃ t, exec (.cmpEnc 0x3FC00000 0x3C4985F0 0x44162CCD) State.reset = .next t ∧
    t.status = 0 ∧ t.rword = (#v[0x012C, 0x007B, 0x0258] : Vector Word 3).toList :=
  ⟨_, rfl, by decide +kernel, by decide +kernel⟩

theorem witness_cfg_reserved : 3 ≤ 3 ∧ 3 ≤ 15 ∧
    (after (present .host (BitVec.ofNat 16 (0xB000 + 256 * 3)) [] State.reset)).map (·.status) = some 5 ∧
    (after (present .host (BitVec.ofNat 16 (0xB000 + 256 * 15)) [] State.reset)).map (·.status) = some 5 := by
  decide +kernel

theorem witness_invariant : BlockInv (bench .sen55 vD8) ∧ step (bench .sen55 vD8) = .next (bench .sen55 vD8) :=
  ⟨by decide +kernel, rfl⟩

theorem witness_dutiful :
    BlockInv { State.reset with inputs := [.operation .host 0x1000 [], .reset] } ∧
    HostDutiful { State.reset with inputs := [.operation .host 0x1000 [], .reset] } := by decide +kernel

theorem witness_sameRegisters : sameRegisters State.reset { State.reset with status := 7, rbyte := [1], rflag := true } := by
  decide +kernel

theorem witness_not_usesAcc : ¬ usesAcc .wbufRd ∧ ∃ t, exec .wbufRd State.reset = .next t :=
  ⟨by simp [usesAcc], _, rfl⟩

theorem witness_goes_on : ∃ t, exec (.valBuf []) State.reset = .next t ∧ t.status ≠ 0 := ⟨_, rfl, by decide +kernel⟩

theorem witness_variant_none : ({ bench .sen55 [] with inputs := [.reset] } : State).variant ≠ .none ∧
    (after (step { bench .sen55 [] with inputs := [.reset] })).map (·.variant) = some .none := by decide +kernel

theorem witness_error : (after (exec .wbufRd State.reset)).map (·.status) = some 4 ∧
    (after (exec (.frmChk 0x00 0x64 0xFF) State.reset)).map (·.status) = some 1 := by decide +kernel

theorem witness_readsOnly : readsOnly .wbufRd ∧ readsOnly (.cvtRt 0) ∧ readsOnly .decCmp ∧
    ∃ t, exec .decCmp (bench .none [0x012C, 0x007B, 0x0258]) = .next t :=
  ⟨.inl rfl, .inr (.inr (.inl ⟨.rt, 0, rfl⟩)), .inr (.inr (.inr ⟨(.decCmp, fun _ => true, 3), by simp [decoders], rfl⟩)), _, rfl⟩

end Sys2Proof.Tests
end

/-! Proofs about the state of `10_state.md`: what an operation can read of it, and its value at reset.

A response writes all six latches, so two states that agree on the registers answer it with the same whole state
(`respond_congr`). Every meaning reads only registers and ends in a response; each shared operation says so once below, and
`exec_congr` puts them together. -/

namespace Sys2Proof.Machine

open Sys2Proof.Claims

section SameRegisters

variable {s s' : State}

/-! ## Updates of the registers keep the agreement -/

theorem sameRegisters_setAcc (h : sameRegisters s s') (a : Byte) :
    sameRegisters { s with acc := a } { s' with acc := a } := by
  obtain ⟨-, hvariant, hwvalid, hwcount, hwbuf, hinputs⟩ := h
  exact ⟨rfl, hvariant, hwvalid, hwcount, hwbuf, hinputs⟩

theorem sameRegisters_setVariant (h : sameRegisters s s') (v : Variant) :
    sameRegisters { s with variant := v } { s' with variant := v } := by
  obtain ⟨hacc, -, hwvalid, hwcount, hwbuf, hinputs⟩ := h
  exact ⟨hacc, rfl, hwvalid, hwcount, hwbuf, hinputs⟩

theorem sameRegisters_invalidate (h : sameRegisters s s') : sameRegisters (invalidate s) (invalidate s') := by
  obtain ⟨hacc, hvariant, -, -, -, hinputs⟩ := h
  exact ⟨hacc, hvariant, rfl, rfl, rfl, hinputs⟩

theorem sameRegisters_commit (h : sameRegisters s s') (words : List Word) :
    sameRegisters (commit words s) (commit words s') := by
  obtain ⟨hacc, hvariant, -, -, -, hinputs⟩ := h
  exact ⟨hacc, hvariant, rfl, rfl, rfl, hinputs⟩

/-! ## Each shared operation answers states with the same registers alike -/

/-- All six latches are written (R32), so nothing of the old ones is left to differ. -/
theorem respond_congr (h : sameRegisters s s') (r : Response) : respond r s = respond r s' := by
  obtain ⟨hacc, hvariant, hwvalid, hwcount, hwbuf, hinputs⟩ := h
  simp only [respond, hacc, hvariant, hwvalid, hwcount, hwbuf, hinputs]

theorem raise_congr (h : sameRegisters s s') (code : Status) : raise code s = raise code s' :=
  respond_congr h _

theorem loadAcc_congr (h : sameRegisters s s') (value : Byte) : loadAcc value s = loadAcc value s' :=
  respond_congr (sameRegisters_setAcc h value) _

theorem selectVariant_congr (h : sameRegisters s s') (v : Variant) : selectVariant v s = selectVariant v s' :=
  respond_congr (sameRegisters_setVariant h v) _

theorem convert_congr (h : sameRegisters s s') (p : Config.Params) (k : Kind) (raw : Word) :
    convert p k raw s = convert p k raw s' :=
  respond_congr h _

theorem compEncode_congr (h : sameRegisters s s') (p : Config.Params) (x0 x1 x2 : Bits32) :
    compEncode p x0 x1 x2 s = compEncode p x0 x1 x2 s' := by
  simp only [compEncode, respond_congr h, raise_congr h]

theorem respondWithWords_congr (h : sameRegisters s s') (n : Nat) (answer : Vector Word n → Response) :
    respondWithWords n answer s = respondWithWords n answer s' := by
  obtain ⟨-, -, -, -, hwbuf, -⟩ := id h
  simp only [respondWithWords, committedWords_congr n hwbuf, respond_congr h]

theorem decodeRecord_congr (h : sameRegisters s s') (gate : Bool) (n : Nat) (answer : Vector Word n → Response) :
    decodeRecord gate n answer s = decodeRecord gate n answer s' := by
  obtain ⟨-, -, hwvalid, hwcount, -, -⟩ := id h
  simp only [decodeRecord, hwvalid, hwcount, raise_congr h, respondWithWords_congr h]

theorem execValBuf_congr (h : sameRegisters s s') (bytes : List Byte) : execValBuf bytes s = execValBuf bytes s' := by
  have hi := sameRegisters_invalidate h
  simp only [execValBuf, raise_congr hi, respond_congr (sameRegisters_commit hi _)]

theorem execWbufRd_congr (h : sameRegisters s s') : execWbufRd s = execWbufRd s' := by
  obtain ⟨-, -, hwvalid, hwcount, -, -⟩ := id h
  simp only [execWbufRd, hwvalid, raise_congr h, respondWithWords_congr h]
  rw [hwcount]

/-- The outcome of an operation depends on the registers alone, its latches included (R30, R32). -/
theorem exec_congr (h : sameRegisters s s') (i : Instr) : exec i s = exec i s' := by
  obtain ⟨hacc, hvariant, -, -, -, -⟩ := id h
  cases i with
  | crcInit | crcBuf bytes => exact congrArg Host.Outcome.next (loadAcc_congr h _)
  | crcFeed bytes => simp only [exec, execCrcFeed, hacc, loadAcc_congr h]
  | frmEnc bytes => simp only [exec, execFrmEnc, respond_congr h, raise_congr h]
  | frmChk hi lo check => simp only [exec, execFrmChk, respond_congr h]
  | valBuf bytes => exact execValBuf_congr h bytes
  | wbufRd => exact execWbufRd_congr h
  | cvtMc raw | cvtNc raw | cvtTps raw | cvtRh raw | cvtT raw | cvtVoc raw | cvtNox raw | cvtRvoc raw | cvtRnox raw
  | cvtRrh raw | cvtRt raw => exact congrArg Host.Outcome.next (convert_congr h _ _ raw)
  | decMv50 => simp only [exec, execDecMv50, hvariant, decodeRecord_congr h]
  | decMv54 => simp only [exec, execDecMv54, hvariant, decodeRecord_congr h]
  | decMv55 => simp only [exec, execDecMv55, hvariant, decodeRecord_congr h]
  | decRaw => simp only [exec, execDecRaw, decRawUnder, hvariant, decodeRecord_congr h]
  | decPm | decRdy | decSts | decStr | decCmp => exact decodeRecord_congr h true _ _
  | cmpEnc x0 x1 x2 => exact congrArg Host.Outcome.next (compEncode_congr h _ x0 x1 x2)
  | cfgSen50 | cfgSen54 | cfgSen55 => exact congrArg Host.Outcome.next (selectVariant_congr h _)
  | cfgRdv => simp only [exec, execCfgRdv, hvariant, respond_congr h]

end SameRegisters

/-- Settles O49: every meaning reads registers only and ends in a response, which writes all six latches. -/
theorem latchesAreOnlyOutputs : Obligations.LatchesAreOnlyOutputs :=
  fun i _ _ h => exec_congr h i

/-- Settles O1: each row of R36 is a field of `State.reset`; the buffer's sixteen entries are one replicated none. -/
theorem resetGivesTheSpecValues : Obligations.ResetGivesTheSpecValues := by
  have hwbuf : ∀ j : Fin 16, State.reset.wbuf[j] = none := fun j => Vector.getElem_replicate j.isLt
  exact ⟨rfl, rfl, rfl, rfl, rfl, hwbuf, rfl, rfl, rfl, rfl, rfl, rfl⟩

end Sys2Proof.Machine

/-! Proofs about what a step does with the oldest input, and the refusal of a second host (`20_memory.md` R59). -/

namespace Sys2Proof.Machine

section OldestInput

variable {s : State} {rest : List Input}

/-- A step takes the oldest input and leaves the younger ones to the later steps. -/
theorem step_of_inputs_cons {input : Input} (h : s.inputs = input :: rest) :
    step s = takeInput input { s with inputs := rest } := by
  simp only [step, h]

theorem step_of_inputs_operation {issuer : Issuer} {desc : Word} {din : List Byte}
    (h : s.inputs = .operation issuer desc din :: rest) :
    step s = present issuer desc din { s with inputs := rest } :=
  step_of_inputs_cons h

end OldestInput

/-- The refusal comes before the descriptor is decoded, so it holds of reserved and malformed operations as well. -/
@[simp] theorem present_secondHost (desc : Word) (din : List Byte) (s : State) :
    present .secondHost desc din s = .refused .secondHost := rfl

/-- Settles O11: the step presents the operation, and `present` looks at the issuer before anything else. -/
theorem secondHostIsRefused : Obligations.SecondHostIsRefused := by
  intro s desc din rest hinputs
  calc step s = present .secondHost desc din { s with inputs := rest } := step_of_inputs_operation hinputs
    _ = .refused .secondHost := present_secondHost desc din _

end Sys2Proof.Machine

/-! Proofs about the opcode map of `30_encoding.md`: which fields decode to an operation (R72 to R78), on which line of
the map that operation stands, and what the block does with a reserved descriptor (R79).

Each operand form says once which list gives which operation, and each table of a group where it has an entry and on which
line. `exists_decodeFields_iff` and `opcodeLine_of_decodeFields` put the groups together. -/

namespace Sys2Proof

open Machine Claims

/-! ## Operand forms (R72) -/

section OperandForms

variable {din : List Byte} {i : Instr}

@[simp] theorem noOperand_eq_some_iff {j : Instr} : noOperand j din = some i ↔ din = [] ∧ j = i := by
  cases din <;> simp [noOperand]

theorem rawOperand_eq_some_iff {op : Word → Instr} :
    rawOperand op din = some i ↔ ∃ hi lo, din = [hi, lo] ∧ op (cat16 hi lo) = i := by
  constructor
  · intro h
    unfold rawOperand at h
    split at h
    · exact ⟨_, _, rfl, Option.some.inj h⟩
    · contradiction
  · rintro ⟨hi, lo, rfl, rfl⟩
    rfl

theorem chunkOperand_eq_some_iff :
    chunkOperand din = some i ↔ ∃ hi lo check, din = [hi, lo, check] ∧ .frmChk hi lo check = i := by
  constructor
  · intro h
    unfold chunkOperand at h
    split at h
    · exact ⟨_, _, _, rfl, Option.some.inj h⟩
    · contradiction
  · rintro ⟨hi, lo, check, rfl, rfl⟩
    rfl

theorem patternOperands_eq_some_iff :
    patternOperands din = some i ↔ ∃ b0 b1 b2 b3 b4 b5 b6 b7 b8 b9 b10 b11,
      din = [b0, b1, b2, b3, b4, b5, b6, b7, b8, b9, b10, b11] ∧
      .cmpEnc (be32 b0 b1 b2 b3) (be32 b4 b5 b6 b7) (be32 b8 b9 b10 b11) = i := by
  constructor
  · intro h
    unfold patternOperands at h
    split at h
    · exact ⟨_, _, _, _, _, _, _, _, _, _, _, _, rfl, Option.some.inj h⟩
    · contradiction
  · rintro ⟨b0, b1, b2, b3, b4, b5, b6, b7, b8, b9, b10, b11, rfl, rfl⟩
    rfl

@[simp] theorem selZero_eq_some_iff {sel : Nat} {o : Option Instr} :
    selZero sel o = some i ↔ sel = 0 ∧ o = some i := by
  by_cases hsel : sel = 0 <;> simp [selZero, hsel]

/-! Each form accepts the lists of its fixed `LEN` (R77). -/

theorem exists_noOperand_iff {j : Instr} : (∃ i, noOperand j din = some i) ↔ din.length = 0 := by
  simp

theorem exists_rawOperand_iff {op : Word → Instr} : (∃ i, rawOperand op din = some i) ↔ din.length = 2 := by
  simp [rawOperand_eq_some_iff, List.length_eq_two]

theorem exists_chunkOperand_iff : (∃ i, chunkOperand din = some i) ↔ din.length = 3 := by
  simp [chunkOperand_eq_some_iff, List.length_eq_three]

theorem exists_patternOperands_iff : (∃ i, patternOperands din = some i) ↔ din.length = 12 := by
  constructor
  · rintro ⟨i, h⟩
    obtain ⟨b0, b1, b2, b3, b4, b5, b6, b7, b8, b9, b10, b11, rfl, -⟩ := patternOperands_eq_some_iff.mp h
    rfl
  · intro hlen
    match din, hlen with
    | [_, _, _, _, _, _, _, _, _, _, _, _], _ => exact ⟨_, rfl⟩

end OperandForms

/-! ## The tables of the groups CVT, DEC and CFG (R74 to R76) -/

section Tables

variable {sel : Nat}

theorem exists_cvtOperation_iff : (∃ op, cvtOperation sel = some op) ↔ sel ≤ 10 := by
  match sel with
  | 0 | 1 | 2 | 3 | 4 | 5 | 6 | 7 | 8 | 9 | 10 => simp [cvtOperation]
  | n + 11 => simp [cvtOperation]

theorem exists_decOperation_iff : (∃ i, decOperation sel = some i) ↔ sel ≤ 8 := by
  match sel with
  | 0 | 1 | 2 | 3 | 4 | 5 | 6 | 7 | 8 => simp [decOperation]
  | n + 9 => simp [decOperation]

theorem exists_cfgOperation_iff : (∃ i, cfgOperation sel = some i) ↔ sel ≤ 2 := by
  match sel with
  | 0 | 1 | 2 => simp [cfgOperation]
  | n + 3 => simp [cfgOperation]

theorem opcodeLine_of_cvtOperation {op : Word → Instr} (h : cvtOperation sel = some op) (raw : Word) :
    opcodeLine (op raw) = (0x8, sel, some 2) := by
  unfold cvtOperation at h
  split at h <;> cases h <;> rfl

theorem opcodeLine_of_decOperation {i : Instr} (h : decOperation sel = some i) : opcodeLine i = (0x9, sel, some 0) := by
  unfold decOperation at h
  split at h <;> cases h <;> rfl

theorem opcodeLine_of_cfgOperation {i : Instr} (h : cfgOperation sel = some i) : opcodeLine i = (0xB, sel, some 0) := by
  unfold cfgOperation at h
  split at h <;> cases h <;> rfl

end Tables

/-! ## The whole map (R78, R79) -/

/-- A group with a table has an operation where the table has an entry and the operands fit the group's `LEN`. -/
theorem exists_groupOperation_iff {α : Type} {entry : Option α} {operands : α → Option Instr} {fits : Prop}
    (h : ∀ a, (∃ i, operands a = some i) ↔ fits) :
    (∃ i, entry.bind operands = some i) ↔ (∃ a, entry = some a) ∧ fits := by
  cases entry <;> simp [h]

/-- The fields that decode are those R79 does not list, group by group. -/
theorem exists_decodeFields_iff {op : Nat} (hop : op < 16) (sel : Nat) (din : List Byte) :
    (∃ i, decodeFields op sel din = some i) ↔ ¬ reservedFields op sel din.length := by
  match op, hop with
  | 0x0, _ | 0xD, _ | 0xE, _ | 0xF, _ => simp [decodeFields]
  | 0x1, _ | 0x2, _ | 0x3, _ | 0x4, _ | 0x6, _ | 0x7, _ | 0xC, _ => simp [decodeFields]
  | 0x5, _ => simp [decodeFields, exists_chunkOperand_iff]
  | 0xA, _ => simp [decodeFields, exists_patternOperands_iff]
  | 0x8, _ =>
    calc (∃ i, decodeFields 0x8 sel din = some i)
      _ ↔ (∃ op, cvtOperation sel = some op) ∧ din.length = 2 := exists_groupOperation_iff fun _ => exists_rawOperand_iff
      _ ↔ ¬ reservedFields 0x8 sel din.length := by simp [exists_cvtOperation_iff]
  | 0x9, _ =>
    calc (∃ i, decodeFields 0x9 sel din = some i)
      _ ↔ (∃ i, decOperation sel = some i) ∧ din.length = 0 := exists_groupOperation_iff fun _ => exists_noOperand_iff
      _ ↔ ¬ reservedFields 0x9 sel din.length := by simp [exists_decOperation_iff]
  | 0xB, _ =>
    calc (∃ i, decodeFields 0xB sel din = some i)
      _ ↔ (∃ i, cfgOperation sel = some i) ∧ din.length = 0 := exists_groupOperation_iff fun _ => exists_noOperand_iff
      _ ↔ ¬ reservedFields 0xB sel din.length := by simp [exists_cfgOperation_iff]
  | n + 16, h => exact absurd h (by omega)

/-- The operation decoded stands on the line of the map with the fields it is decoded from. -/
theorem opcodeLine_of_decodeFields {op sel : Nat} {din : List Byte} {i : Instr} (h : decodeFields op sel din = some i) :
    (opcodeLine i).1 = op ∧ (opcodeLine i).2.1 = sel := by
  match op with
  | 0x1 | 0x7 | 0xC =>
    obtain ⟨rfl, hno⟩ := selZero_eq_some_iff.mp h
    obtain ⟨-, rfl⟩ := noOperand_eq_some_iff.mp hno
    exact ⟨rfl, rfl⟩
  | 0x2 | 0x3 | 0x4 | 0x6 =>
    obtain ⟨rfl, hbytes⟩ := selZero_eq_some_iff.mp h
    cases hbytes
    exact ⟨rfl, rfl⟩
  | 0x5 =>
    obtain ⟨rfl, hchunk⟩ := selZero_eq_some_iff.mp h
    obtain ⟨hi, lo, check, -, rfl⟩ := chunkOperand_eq_some_iff.mp hchunk
    exact ⟨rfl, rfl⟩
  | 0xA =>
    obtain ⟨rfl, hpatterns⟩ := selZero_eq_some_iff.mp h
    obtain ⟨b0, b1, b2, b3, b4, b5, b6, b7, b8, b9, b10, b11, -, rfl⟩ := patternOperands_eq_some_iff.mp hpatterns
    exact ⟨rfl, rfl⟩
  | 0x8 =>
    obtain ⟨f, hf, hraw⟩ := Option.bind_eq_some_iff.mp h
    obtain ⟨hi, lo, -, rfl⟩ := rawOperand_eq_some_iff.mp hraw
    simp [opcodeLine_of_cvtOperation hf]
  | 0x9 =>
    obtain ⟨j, hj, hno⟩ := Option.bind_eq_some_iff.mp h
    obtain ⟨-, rfl⟩ := noOperand_eq_some_iff.mp hno
    simp [opcodeLine_of_decOperation hj]
  | 0xB =>
    obtain ⟨j, hj, hno⟩ := Option.bind_eq_some_iff.mp h
    obtain ⟨-, rfl⟩ := noOperand_eq_some_iff.mp hno
    simp [opcodeLine_of_cfgOperation hj]
  | 0x0 | n + 13 => simp [decodeFields] at h

/-- On the `OP` and `SEL` of a line with a fixed `LEN`, R79 reserves every other `LEN`. -/
theorem len_eq_of_not_reservedFields {i : Instr} {len n : Nat}
    (h : ¬ reservedFields (opcodeLine i).1 (opcodeLine i).2.1 len) (hn : (opcodeLine i).2.2 = some n) : len = n := by
  cases i <;> simp_all [opcodeLine]

section Descriptor

variable {desc : Word} {din : List Byte}

theorem decode_eq_ok_iff_fields (hlen : din.length = (fields desc).2.2) (i : Instr) :
    decode desc din = .ok i ↔ decodeFields (fields desc).1 (fields desc).2.1 din = some i := by
  simp [decode_eq_ok_iff, opField_toNat, selField_toNat, lenField_toNat, hlen]

/-- With `LEN` operand bytes, decoding answers an operation exactly where the descriptor is not reserved. -/
theorem exists_decode_eq_ok_iff (hlen : din.length = (fields desc).2.2) :
    (∃ i, decode desc din = .ok i) ↔ ¬ reserved desc := by
  have hop : desc.toNat / 4096 < 16 := by omega
  simp only [decode_eq_ok_iff_fields hlen, exists_decodeFields_iff hop, hlen]

end Descriptor

/-- Settles O6: the groups' tables and operand forms leave out what R79 lists, and each entry stands on its line; a `LEN`
other than the line's fixed one is reserved, so it does not decode. -/
theorem decodeFollowsTheOpcodeMap : Obligations.DecodeFollowsTheOpcodeMap := by
  intro desc din hlen
  refine ⟨exists_decode_eq_ok_iff hlen, fun i hdecode => ?_⟩
  obtain ⟨hop, hsel⟩ := opcodeLine_of_decodeFields ((decode_eq_ok_iff_fields hlen i).mp hdecode)
  have hnot : ¬ reserved desc := (exists_decode_eq_ok_iff hlen).mp ⟨i, hdecode⟩
  refine ⟨hop, hsel, fun n hn => len_eq_of_not_reservedFields ?_ hn⟩
  rwa [hop, hsel]

end Sys2Proof

namespace Sys2Proof.Machine

open Claims

/-- Where decoding answers no operation and the operand count is right, the block answers `ILLEGAL_OP` (R79, R244). -/
theorem present_host_eq_illegalOp {desc : Word} {din : List Byte} (hcount : decode desc din ≠ .error .operandCount)
    (hnone : ¬ ∃ i, decode desc din = .ok i) (s : State) : present .host desc din s = .next (illegalOp s) := by
  cases hdecode : decode desc din with
  | ok i => exact absurd ⟨i, hdecode⟩ hnone
  | error e =>
    cases e with
    | operandCount => exact absurd hdecode hcount
    | reservedOp | reservedSel | reservedLen => simp only [present, hdecode]

/-- The latches of `ILLEGAL_OP`, as the claims write them. -/
theorem illegalOp_eq_raised (s : State) : illegalOp s = raised s 5 := rfl

/-- Settles O5: a reserved descriptor decodes to no operation, and with `LEN` operand bytes the count is not at fault. -/
theorem reservedDescriptorRaisesIllegalOp : Obligations.ReservedDescriptorRaisesIllegalOp := by
  intro s desc din rest hreserved hlen hinputs
  have hcount : decode desc din ≠ .error .operandCount := fun h =>
    (decode_eq_operandCount_iff desc din).mp h (hlen.trans (lenField_toNat desc).symm)
  have hnone : ¬ ∃ i, decode desc din = .ok i := fun h => (exists_decode_eq_ok_iff hlen).mp h hreserved
  calc step s = present .host desc din { s with inputs := rest } := step_of_inputs_operation hinputs
    _ = .next (illegalOp { s with inputs := rest }) := present_host_eq_illegalOp hcount hnone _
    _ = .next (raised { s with inputs := rest } 5) := congrArg Host.Outcome.next (illegalOp_eq_raised _)

end Sys2Proof.Machine

/-! Proofs about the CRC and frame operations of `40_crc.md`: the accumulator's CRC.INIT, CRC.FEED and CRC.BUF (R103 to
R105), and the frames FRM.ENC builds and FRM.CHK checks (R106, R107).

The descriptors of the operations with a free `LEN` are read once, for every `OP`. An accumulator operation ends in
`loadAcc`, whose whole state is said once. The chunks FRM.ENC writes are found by the place of their word. -/

namespace Sys2Proof

open Machine Claims

/-! ## Descriptors with `SEL` 0 and a free `LEN` (R71, R73) -/

theorem fields_ofNat_op_len {op len : Nat} (hop : op < 16) (hlen : len ≤ 255) :
    fields (BitVec.ofNat 16 (op * 0x1000 + len)) = (op, 0, len) := by
  have hnat : (BitVec.ofNat 16 (op * 0x1000 + len)).toNat = op * 0x1000 + len := by
    rw [BitVec.toNat_ofNat]
    omega
  simp only [fields, hnat, Prod.mk.injEq]
  omega

/-- With `LEN` the number of operand bytes, the descriptor decodes to what its `OP` makes of them. -/
theorem decode_ofNat_op_length {op : Nat} {bytes : List Byte} {i : Instr} (hop : op < 16) (hlen : bytes.length ≤ 255)
    (hi : decodeFields op 0 bytes = some i) :
    decode (BitVec.ofNat 16 (op * 0x1000 + bytes.length)) bytes = .ok i := by
  have hfields := fields_ofNat_op_len hop hlen
  rw [decode_eq_ok_iff_fields (by rw [hfields]), hfields]
  exact hi

end Sys2Proof

namespace Sys2Proof.Machine

open Claims

/-! ## The functions, as the claims write them -/

theorem crcFeed_eq_foldl (acc : Byte) (bytes : List Byte) : crcFeed acc bytes = bytes.foldl crcStep acc := rfl

theorem crc8_eq_foldl (bytes : List Byte) : crc8 bytes = bytes.foldl crcStep 0xFF := rfl

theorem checkByte_eq_check (hi lo : Byte) : checkByte hi lo = check hi lo := rfl

/-- The latches after an error, as the claims write them (`10_state.md` R32). -/
theorem raise_eq_raised (code : Status) (s : State) : raise code s = raised s code.code := rfl

/-! ## The accumulator's operations (R103 to R105) -/

/-- The whole state an accumulator operation ends in: the value in `ACC` and in `RBYTE`, every other latch cleared. -/
theorem loadAcc_eq (value : Byte) (s : State) :
    loadAcc value s =
      { s with acc := value, status := 0, rbyte := [value], rword := [], rval := [], rflag := false, ru32 := 0 } := rfl

theorem exec_crcInit (s : State) : exec .crcInit s = .next (loadAcc 0xFF s) := rfl

theorem exec_crcFeed (bytes : List Byte) (s : State) :
    exec (.crcFeed bytes) s = .next (loadAcc (crcFeed s.acc bytes) s) := rfl

theorem exec_crcBuf (bytes : List Byte) (s : State) : exec (.crcBuf bytes) s = .next (loadAcc (crc8 bytes) s) := rfl

/-- Settles O13: CRC.INIT loads the seed. -/
theorem crcInitSetsTheSeed : Obligations.CrcInitSetsTheSeed := by
  refine ⟨decode_ofNat_op_length (op := 0x1) (bytes := []) (by decide) (by decide) rfl, fun s => ?_⟩
  rw [exec_crcInit, loadAcc_eq]

/-- Settles O14: CRC.FEED loads the running value stepped by every byte. -/
theorem crcFeedStepsTheAccumulator : Obligations.CrcFeedStepsTheAccumulator := by
  refine ⟨fun bytes hlen => decode_ofNat_op_length (op := 0x2) (by decide) hlen rfl, fun s bytes => ?_⟩
  rw [exec_crcFeed, loadAcc_eq, crcFeed_eq_foldl]

/-- Settles O15: CRC.BUF loads the CRC of the buffer from the seed, in which the earlier `ACC` does not occur. -/
theorem crcBufComputesTheWholeBuffer : Obligations.CrcBufComputesTheWholeBuffer := by
  refine ⟨fun bytes hlen => decode_ofNat_op_length (op := 0x3) (by decide) hlen rfl, fun s bytes => ?_⟩
  rw [exec_crcBuf, loadAcc_eq, crc8_eq_foldl]

/-! ## FRM.ENC (R106) -/

theorem frmEncLenOk_iff (n : Nat) : frmEncLenOk n = true ↔ payloadLength n := by
  simp [frmEncLenOk, Config.maxChunks, and_assoc]

theorem exec_frmEnc_of_not_payloadLength {bytes : List Byte} (h : ¬ payloadLength bytes.length) (s : State) :
    exec (.frmEnc bytes) s = .next (raise .invalidArgument s) :=
  if_neg (mt (frmEncLenOk_iff _).mp h)

theorem exec_frmEnc_of_payloadLength {bytes : List Byte} (h : payloadLength bytes.length) (s : State) :
    exec (.frmEnc bytes) s =
      .next (respond { status := .ok, rbyte := (wordsOf bytes).flatMap frame, rword := wordsOf bytes } s) :=
  if_pos ((frmEncLenOk_iff _).mpr h)

/-- Chunk `j` of framed words is the frame of word `j`: each word before it takes three bytes. -/
theorem chunkAt_flatMap_frame {words : List Word} {j : Nat} {hi lo : Byte} (h : words[j]? = some (cat16 hi lo)) :
    chunkAt (words.flatMap frame) j hi lo (check hi lo) := by
  induction j generalizing words with
  | zero =>
    obtain ⟨ws, rfl⟩ := List.head?_eq_some_iff.mp (List.head?_eq_getElem? ▸ h)
    simp [chunkAt, frame, checkByte_eq_check]
  | succ j ih =>
    cases words with
    | nil => simp at h
    | cons w ws => simpa [chunkAt, frame, Nat.mul_add] using ih (words := ws) (by simpa using h)

/-- Settles O21: the count decides the outcome; a word lies at the place of its two bytes, and its chunk at the place of
the word. -/
theorem frmEncFramesEveryWord : Obligations.FrmEncFramesEveryWord := by
  refine ⟨fun bytes hlen => decode_ofNat_op_length (op := 0x4) (by decide) hlen rfl, fun s bytes => ⟨?_, ?_⟩⟩
  · intro hcount
    rw [exec_frmEnc_of_not_payloadLength hcount, raise_eq_raised]
    rfl
  · intro hcount
    refine ⟨(wordsOf bytes).flatMap frame, wordsOf bytes, exec_frmEnc_of_payloadLength hcount s, wordsOf_length bytes, ?_,
      fun j hi lo hbyte0 hbyte1 => ?_⟩
    · rw [flatMap_frame_length, wordsOf_length]
    · have hword : (wordsOf bytes)[j]? = some (cat16 hi lo) := wordsOf_getElem? bytes j hi lo hbyte0 hbyte1
      exact ⟨hword, chunkAt_flatMap_frame hword⟩

/-! ## FRM.CHK (R107) -/

section FrmChk

variable {hi lo c : Byte}

theorem exec_frmChk_of_match (h : check hi lo = c) (s : State) :
    exec (.frmChk hi lo c) s = .next (respond { status := .ok, rword := [cat16 hi lo], rbyte := [c], rflag := true } s) := by
  subst h
  exact if_pos rfl

theorem exec_frmChk_of_mismatch (h : check hi lo ≠ c) (s : State) :
    exec (.frmChk hi lo c) s = .next (respond { status := .crcMismatch, rbyte := [check hi lo], rflag := false } s) :=
  if_neg h

end FrmChk

/-- Settles O22: the descriptor's three operand bytes are the chunk, and the comparison of its check byte decides the
outcome. -/
theorem frmChkChecksOneChunk : Obligations.FrmChkChecksOneChunk := fun s hi lo c =>
  ⟨decode_ofNat_op_length (op := 0x5) (bytes := [hi, lo, c]) (by decide) (by simp) rfl,
    fun hmatch => exec_frmChk_of_match hmatch s, fun hmismatch => exec_frmChk_of_mismatch hmismatch s⟩

end Sys2Proof.Machine

/-! Proofs about the validator of `41_validator.md`: VAL.BUF (R120) and the read of its words, WBUF.RD (R121).

The model's list of chunks is tied to the places of their bytes, `chunkAt`, once and in both directions; with that, each
branch of VAL.BUF is chosen by what the rule says about the buffer. A buffer that holds a list of words is read back as
that list. -/

namespace Sys2Proof.Machine

open Claims

/-! ## The chunks of a buffer and their bytes (`20_memory.md` R56) -/

section Chunks

variable {bytes : List Byte}

/-- A chunk lies at the place of its three bytes: `chunksOf_getElem?` with its converse, since the bytes of a chunk are all
there and three bytes make only one chunk. -/
theorem chunksOf_getElem?_eq_some_iff {j : Nat} {chunk : Chunk} :
    (chunksOf bytes)[j]? = some chunk ↔ chunkAt bytes j chunk.hi chunk.lo chunk.check := by
  constructor
  · intro hchunk
    have hj : j < bytes.length / 3 := by
      simpa using (List.getElem?_eq_some_iff.mp hchunk).1
    have hplace := chunksOf_getElem? bytes j bytes[3 * j] bytes[3 * j + 1] bytes[3 * j + 2]
      (List.getElem?_eq_getElem _) (List.getElem?_eq_getElem _) (List.getElem?_eq_getElem _)
    obtain rfl := Option.some.inj (hplace.symm.trans hchunk)
    exact ⟨List.getElem?_eq_getElem _, List.getElem?_eq_getElem _, List.getElem?_eq_getElem _⟩
  · rintro ⟨hhi, hlo, hcheck⟩
    exact chunksOf_getElem? bytes j chunk.hi chunk.lo chunk.check hhi hlo hcheck

theorem chunkOk_iff_check {chunk : Chunk} : chunkOk chunk = true ↔ check chunk.hi chunk.lo = chunk.check :=
  chunkOk_iff chunk

theorem all_chunkOk_iff :
    (chunksOf bytes).all chunkOk = true ↔ ∀ j hi lo c, chunkAt bytes j hi lo c → check hi lo = c := by
  simp only [List.all_eq_true, List.mem_iff_getElem?, chunksOf_getElem?_eq_some_iff, chunkOk_iff_check]
  exact ⟨fun hall j hi lo c hat => hall ⟨hi, lo, c⟩ ⟨j, hat⟩,
    fun hall chunk ⟨j, hat⟩ => hall j chunk.hi chunk.lo chunk.check hat⟩

/-- The words of a buffer's chunks stand at their chunks' places. -/
theorem chunkWords_getElem? {j : Nat} {hi lo c : Byte} (hat : chunkAt bytes j hi lo c) :
    ((chunksOf bytes).map chunkWord)[j]? = some (cat16 hi lo) := by
  rw [List.getElem?_map, chunksOf_getElem?_eq_some_iff (chunk := ⟨hi, lo, c⟩) |>.mpr hat]
  rfl

end Chunks

/-! ## VAL.BUF (R120) -/

section ValBuf

variable {bytes : List Byte}

theorem valBufLenOk_iff (n : Nat) : valBufLenOk n = true ↔ validLength n := by
  simp [valBufLenOk, Config.maxChunks, and_assoc]

theorem exec_valBuf_of_not_validLength (hlen : ¬ validLength bytes.length) (s : State) :
    exec (.valBuf bytes) s = .next (raise .invalidArgument (invalidate s)) :=
  if_pos (Bool.eq_false_iff.mpr (mt (valBufLenOk_iff _).mp hlen))

/-- Past the length check, VAL.BUF is decided by its chunks alone. -/
theorem exec_valBuf_of_validLength (hlen : validLength bytes.length) (s : State) :
    exec (.valBuf bytes) s =
      if (chunksOf bytes).all chunkOk then
        .next (respond { status := .ok, rword := (chunksOf bytes).map chunkWord, rflag := true }
          (commit ((chunksOf bytes).map chunkWord) (invalidate s)))
      else .next (raise .crcMismatch (invalidate s)) :=
  if_neg (by simp [(valBufLenOk_iff _).mpr hlen])

theorem exec_valBuf_of_badChunk (hlen : validLength bytes.length)
    (hbad : ∃ j hi lo c, chunkAt bytes j hi lo c ∧ check hi lo ≠ c) (s : State) :
    exec (.valBuf bytes) s = .next (raise .crcMismatch (invalidate s)) := by
  obtain ⟨j, hi, lo, c, hat, hne⟩ := hbad
  rw [exec_valBuf_of_validLength hlen, if_neg fun hall => hne (all_chunkOk_iff.mp hall j hi lo c hat)]

theorem exec_valBuf_of_goodChunks (hlen : validLength bytes.length)
    (hgood : ∀ j hi lo c, chunkAt bytes j hi lo c → check hi lo = c) (s : State) :
    exec (.valBuf bytes) s =
      .next (respond { status := .ok, rword := (chunksOf bytes).map chunkWord, rflag := true }
        (commit ((chunksOf bytes).map chunkWord) (invalidate s))) := by
  rw [exec_valBuf_of_validLength hlen, if_pos (all_chunkOk_iff.mpr hgood)]

end ValBuf

/-- Settles O23: the length decides first, then the chunks' check bytes; the words committed are the chunks' words. -/
theorem valBufCommitsAllOrNothing : Obligations.ValBufCommitsAllOrNothing := by
  refine ⟨fun bytes hlen => decode_ofNat_op_length (op := 0x6) (by decide) hlen rfl, fun s bytes => ⟨?_, ?_, ?_⟩⟩
  · exact fun hlen => exec_valBuf_of_not_validLength hlen s
  · exact fun hlen hbad => exec_valBuf_of_badChunk hlen hbad s
  · intro hlen hgood
    refine ⟨(chunksOf bytes).map chunkWord, ?_, fun _ _ _ _ hat => chunkWords_getElem? hat,
      exec_valBuf_of_goodChunks hlen hgood s⟩
    rw [List.length_map, chunksOf_length]

/-! ## WBUF.RD (R121) -/

section WbufRd

variable {s : State}

/-- Where the buffer holds a list of words, reading that many entries gives the list. -/
theorem committedWords_eq_some_of_list {n : Nat} {words : List Word} (hlen : words.length = n)
    (hholds : ∀ (j : Nat) (w : Word), words[j]? = some w → s.wbuf[j]? = some (some w)) :
    committedWords n s = some ⟨words.toArray, hlen⟩ := by
  refine (committedWords_eq_some_iff n s _).mpr fun j => (wbufEntry_eq_some_iff s j _).mpr (hholds j _ ?_)
  exact List.getElem?_eq_getElem (hlen ▸ j.isLt)

theorem exec_wbufRd_of_noCommit (hvalid : s.wvalid = false) : exec .wbufRd s = .next (raise .noData s) :=
  if_pos hvalid

theorem exec_wbufRd_of_commit (hvalid : s.wvalid = true) :
    exec .wbufRd s = respondWithWords s.wcount.toNat (fun w => { status := .ok, rword := w.toList }) s :=
  if_neg (by simp [hvalid])

end WbufRd

/-- Settles O26: without a commit the read raises NO_DATA; with one it reports the list of words the buffer holds. -/
theorem wbufRdReportsTheCommit : Obligations.WbufRdReportsTheCommit := by
  refine ⟨decode_ofNat_op_length (op := 0x7) (bytes := []) (by decide) (by decide) rfl, fun s => ⟨?_, ?_⟩⟩
  · exact fun hvalid => exec_wbufRd_of_noCommit hvalid
  · intro hvalid words hlen hholds
    rw [exec_wbufRd_of_commit hvalid, respondWithWords_eq_next_iff]
    exact ⟨_, committedWords_eq_some_of_list hlen hholds, rfl⟩

end Sys2Proof.Machine

/-! Proofs about the converter of `42_convert.md`: the eleven CVT operations (R140 to R151).

One conversion is tied to the claims' reading of a row once, for every kind: on the sentinel and off it. The operations are
then one equation over the kinds. -/

namespace Sys2Proof.Machine

open Claims

/-! ## One conversion (R140) -/

section Conversion

variable {k : Kind} {raw : Word}

theorem conv_of_sentinel (h : raw = (scaling k).sentinel) (p : Config.Params) : conv p k raw = (nanBits p.nan, false) :=
  if_pos h

theorem conv_of_not_sentinel (h : raw ≠ (scaling k).sentinel) (p : Config.Params) :
    conv p k raw = (rne32 (quotient k raw), true) :=
  if_neg h

end Conversion

/-- A conversion gives the reading of its kind's row, and the available bit. -/
theorem conv_eq (p : Config.Params) (k : Kind) (raw : Word) :
    conv p k raw =
      (readingUnder p (scaling k).signed (scaling k).divisor (scaling k).sentinel raw,
        decide (raw ≠ (scaling k).sentinel)) := by
  by_cases hsentinel : raw = (scaling k).sentinel
  · rw [conv_of_sentinel hsentinel, readingUnder, if_pos hsentinel, decide_eq_false (not_not_intro hsentinel)]
  · rw [conv_of_not_sentinel hsentinel, readingUnder, if_neg hsentinel, decide_eq_true hsentinel]
    rfl

/-- The value alone, as the decoders use it. -/
theorem convValue_eq_readingUnder (p : Config.Params) (k : Kind) (raw : Word) :
    convValue p k raw = readingUnder p (scaling k).signed (scaling k).divisor (scaling k).sentinel raw :=
  congrArg Prod.fst (conv_eq p k raw)

/-! ## The eleven operations (`42_convert.md` section 2) -/

theorem convert_eq_converted (k : Kind) (raw : Word) (s : State) :
    convert Config.params k raw s =
      converted s (scaling k).signed (scaling k).divisor (scaling k).sentinel raw := by
  rw [convert, conv_eq]
  rfl

theorem exec_cvtOf (k : Kind) (raw : Word) (s : State) :
    exec (cvtOf k raw) s = .next (convert Config.params k raw s) := by
  cases k <;> rfl

/-- Settles O27: every operation is its kind's `convert`, and the table gives the row. -/
theorem cvtConvertsEveryKind : Obligations.CvtConvertsEveryKind := by
  intro s raw
  have hkind (k : Kind) : exec (cvtOf k raw) s =
      .next (converted s (scaling k).signed (scaling k).divisor (scaling k).sentinel raw) := by
    rw [exec_cvtOf, convert_eq_converted]
  exact ⟨hkind .mc, hkind .nc, hkind .tps, hkind .rh, hkind .t, hkind .voc, hkind .nox, hkind .rvoc, hkind .rnox,
    hkind .rrh, hkind .rt⟩

end Sys2Proof.Machine

/-! Proofs about the record decoders of `43_decode.md`: the prelude (R170), the validity flags (R172) and the operations
DEC.MV50 to DEC.STR (R173 to R180).

The three errors and the read of the words are the same for every decoder, so `recordRule_of_decodeRecord` says once what the
prelude gives. What is left of each operation is that its record is the one the claims write. -/

namespace Sys2Proof.Machine

open Claims

/-! ## The prelude (R170), one equation per branch -/

section Prelude

variable {gate : Bool} {n : Nat} {answer : Vector Word n → Response} {s : State}

theorem decodeRecord_of_closedGate (hgate : gate = false) :
    decodeRecord gate n answer s = .next (raise .unsupportedVariant s) :=
  if_pos hgate

theorem decodeRecord_of_noCommit (hgate : gate = true) (hvalid : s.wvalid = false) :
    decodeRecord gate n answer s = .next (raise .noData s) := by
  simp [decodeRecord, hgate, hvalid]

theorem decodeRecord_of_wrongCount (hgate : gate = true) (hvalid : s.wvalid = true) (hcount : s.wcount.toNat ≠ n) :
    decodeRecord gate n answer s = .next (raise .invalidArgument s) := by
  simp [decodeRecord, hgate, hvalid, hcount]

theorem committedWords_eq_some_of_holds {w : Vector Word n} (hholds : holds s w) : committedWords n s = some w :=
  (committedWords_eq_some_iff n s w).mpr fun j => (wbufEntry_eq_some_iff s j w[j]).mpr (hholds j)

end Prelude

/-- An operation that is the prelude with a gate, a count and a record follows the claims' rule for a record decoder. -/
theorem recordRule_of_decodeRecord {run : State → Result} {gate : Variant → Bool} {n : Nat}
    {done : State → Vector Word n → State} (answer : Vector Word n → Response)
    (hrun : ∀ s, run s = decodeRecord (gate s.variant) n answer s)
    (hdone : ∀ s w, respond (answer w) s = done s w) : recordRule run gate n done := by
  intro s
  rw [hrun]
  refine ⟨?closedGate, ?noCommit, ?wrongCount, ?record⟩
  case closedGate => exact fun hgate => decodeRecord_of_closedGate hgate
  case noCommit => exact fun hgate hvalid => decodeRecord_of_noCommit hgate hvalid
  case wrongCount => exact fun hgate hvalid hcount => decodeRecord_of_wrongCount hgate hvalid hcount
  case record =>
    intro hgate hvalid hcount w hholds
    rw [decodeRecord_ok answer hgate hvalid hcount (committedWords_eq_some_of_holds hholds), hdone]

/-! ## Measured values (R171 to R175) -/

theorem notSentinel_iff (raw : Word) : notSentinel raw = true ↔ raw ≠ 0xFFFF := bne_iff_ne

theorem massValues_eq (p : Config.Params) (w : Vector Word 8) :
    massValues p w = [readingUnder p false 10 0xFFFF w[0], readingUnder p false 10 0xFFFF w[1],
      readingUnder p false 10 0xFFFF w[2], readingUnder p false 10 0xFFFF w[3]] := by
  simp only [massValues, convValue_eq_readingUnder]
  rfl

theorem mvValid_eq_massOk (w : Vector Word 8) : mvValid w = massOk w := by
  rw [Bool.eq_iff_iff, massOk, decide_eq_true_iff]
  simp only [mvValid, Bool.and_eq_true, notSentinel_iff, and_assoc]

/-- Settles O30: the SEN50 record is the four mass concentrations alone. -/
theorem decMv50DecodesTheSen50Shape : Obligations.DecMv50DecodesTheSen50Shape := by
  refine ⟨rfl, recordRule_of_decodeRecord (mv50Record Config.params) (fun _ => rfl) fun s w => ?_⟩
  rw [mv50Record, massValues_eq, mvValid_eq_massOk]
  rfl

/-- Settles O31: humidity, temperature and VOC index follow the mass concentrations. -/
theorem decMv54DecodesTheSen54Shape : Obligations.DecMv54DecodesTheSen54Shape := by
  refine ⟨rfl, recordRule_of_decodeRecord (mv54Record Config.params) (fun _ => rfl) fun s w => ?_⟩
  simp only [mv54Record, massValues_eq, mvValid_eq_massOk, convValue_eq_readingUnder]
  rfl

/-- Settles O32: all eight words are decoded, and the flag is still that of the mass concentrations. -/
theorem decMv55DecodesTheSen55Shape : Obligations.DecMv55DecodesTheSen55Shape := by
  refine ⟨rfl, recordRule_of_decodeRecord (mv55Record Config.params) (fun _ => rfl) fun s w => ?_⟩
  simp only [mv55Record, massValues_eq, mvValid_eq_massOk, convValue_eq_readingUnder]
  rfl

/-! ## PM values (R176) -/

theorem pmValid_eq (w : Vector Word 10) : pmValid w = decide (∀ j : Fin 10, w[j] ≠ 0xFFFF) := by
  rw [Bool.eq_iff_iff, decide_eq_true_iff, pmValid]
  simp only [List.all_eq_true, notSentinel_iff, Vector.mem_toList_iff]
  constructor
  · exact fun hall j => hall w[j] (Vector.getElem_mem j.isLt)
  · intro hall raw hmem
    obtain ⟨j, hj, rfl⟩ := Vector.getElem_of_mem hmem
    exact hall ⟨j, hj⟩

/-- Settles O33: the prelude has no gate, and the flag looks at all ten words. -/
theorem decPmDecodesTheTenValues : Obligations.DecPmDecodesTheTenValues := by
  refine ⟨rfl, recordRule_of_decodeRecord (pmRecord Config.params) (fun _ => rfl) fun s w => ?_⟩
  simp only [pmRecord, pmValid_eq, convValue_eq_readingUnder]
  rfl

/-! ## Raw values (R177) -/

theorem inRawVariants_eq_rawGateUnder (p : Config.Params) (v : Variant) : inRawVariants p v = rawGateUnder p v := by
  cases v <;> rfl

theorem respond_rawRecord (p : Config.Params) (s : State) (w : Vector Word 4) :
    respond (rawRecord p w) s = rawDecoded p s w := by
  simp only [rawRecord, convValue_eq_readingUnder]
  rfl

/-- The rule of DEC.RAW for every legal choice of the parameters. -/
theorem recordRule_decRawUnder (p : Config.Params) : recordRule (decRawUnder p) (rawGateUnder p) 4 (rawDecoded p) :=
  recordRule_of_decodeRecord (rawRecord p) (fun s => by rw [decRawUnder, inRawVariants_eq_rawGateUnder])
    (respond_rawRecord p)

/-- Settles O34: the machine's DEC.RAW is `decRawUnder` of its own parameters, and the rule holds for all of them. -/
theorem decRawDecodesTheFourRawValues : Obligations.DecRawDecodesTheFourRawValues :=
  ⟨⟨rfl, recordRule_decRawUnder Config.params⟩, fun _ => rfl, recordRule_decRawUnder⟩

/-! ## Data ready (R178) -/

theorem dataReady_lo8 (raw : Word) : dataReady (lo8 raw) = decide (raw.toNat % 256 = 1) := by
  rw [Bool.eq_iff_iff, decide_eq_true_iff, dataReady, beq_iff_eq, BitVec.toNat_eq]
  simp [lo8]

/-- Settles O35: only the low byte is looked at. -/
theorem decRdyReportsDataReady : Obligations.DecRdyReportsDataReady := by
  refine ⟨rfl, recordRule_of_decodeRecord rdyRecord (fun _ => rfl) fun s w => ?_⟩
  rw [rdyRecord, dataReady_lo8]
  rfl

/-! ## Device status (R179, `10_state.md` R34) -/

/-- A mask of two parts is met where one of its parts is. -/
theorem and_or_bne_zero (x a b : Bits32) : (x &&& (a ||| b) != 0) = ((x &&& a != 0) || (x &&& b != 0)) := by
  rw [Bool.eq_iff_iff, BitVec.and_or_distrib_left]
  simp [BitVec.or_eq_zero_iff, imp_iff_not_or]

/-- A mask of one bit is met where that bit is set. -/
theorem and_twoPow_bne_zero (x : Bits32) {k : Nat} (hk : k < 32) : (x &&& BitVec.twoPow 32 k != 0) = x.getLsbD k := by
  rw [BitVec.and_twoPow]
  cases x.getLsbD k with
  | false => rfl
  | true => simp [BitVec.toNat_eq, BitVec.toNat_twoPow_of_lt hk]

theorem stsFlags_eq_twoPow :
    stsFlags = BitVec.twoPow 32 21 ||| BitVec.twoPow 32 19 ||| BitVec.twoPow 32 7 ||| BitVec.twoPow 32 6 |||
      BitVec.twoPow 32 5 ||| BitVec.twoPow 32 4 := by
  decide

theorem anyStatusFlag_eq (status : Bits32) :
    anyStatusFlag status = (status.getLsbD 21 || status.getLsbD 19 || status.getLsbD 7 || status.getLsbD 6 ||
      status.getLsbD 5 || status.getLsbD 4) := by
  simp (disch := decide) only [anyStatusFlag, stsFlags_eq_twoPow, and_or_bne_zero, and_twoPow_bne_zero]

/-- Bits 31:16 of the status are the first word's. -/
theorem anyStatusFlag_cat32 (a b : Word) :
    anyStatusFlag (cat32 a b) =
      (a.getLsbD 5 || a.getLsbD 3 || b.getLsbD 7 || b.getLsbD 6 || b.getLsbD 5 || b.getLsbD 4) := by
  simp only [anyStatusFlag_eq, cat32, BitVec.getLsbD_append]
  rfl

/-- Settles O36: the flag is the named bits of the two words. -/
theorem decStsAssemblesTheStatus : Obligations.DecStsAssemblesTheStatus := by
  refine ⟨rfl, recordRule_of_decodeRecord stsRecord (fun _ => rfl) fun s w => ?_⟩
  rw [stsRecord, anyStatusFlag_cat32]
  rfl

/-! ## The identification string (R180) -/

/-- Settles O37: the record passes the words' bytes through as they stand. -/
theorem decStrPassesTheString : Obligations.DecStrPassesTheString :=
  ⟨rfl, recordRule_of_decodeRecord strRecord (fun _ => rfl) fun _ _ => rfl⟩

end Sys2Proof.Machine

/-! Proofs about the temperature compensation of `44_compensation.md`: DEC.CMP (R203) and CMP.ENC (R202).

The claims say a rounding by distance over the rationals. The model's roundings meet that (`rounds_roundFrac`,
`truncates_truncFrac`), and at most one integer does (`rounds_unique`, `truncates_unique`); so the integers of a statement are
the model's, and what is left is the order of CMP.ENC's checks. -/

namespace Sys2Proof.Machine

open Claims

/-! ## DEC.CMP (R203) -/

/-- Settles O38: the prelude has no gate, and the record divides each word by its register's scale. -/
theorem decCmpDecodesTheRegisters : Obligations.DecCmpDecodesTheRegisters :=
  ⟨rfl, recordRule_of_decodeRecord cmpRecord (fun _ => rfl) fun _ _ => rfl⟩

/-! ## The value of a pattern (`00_scope.md` R11) -/

theorem expField_toNat (x : Bits32) : (expField x).toNat = x.toNat / 2 ^ 23 % 256 := by
  simp [expField, BitVec.extractLsb'_toNat, Nat.shiftRight_eq_div_pow]

theorem fracField_toNat (x : Bits32) : (fracField x).toNat = x.toNat % 2 ^ 23 := by
  simp [fracField, BitVec.extractLsb'_toNat]

theorem isNan32_or_isInf32_iff (x : Bits32) : isNan32 x = true ∨ isInf32 x = true ↔ ¬ finite x := by
  have hexp : expField x = 0xFF ↔ ¬ finite x := by
    rw [BitVec.toNat_eq, expField_toNat, finite, not_not]
    rfl
  simp only [isNan32, isInf32, Bool.and_eq_true, beq_iff_eq, bne_iff_ne]
  rw [← and_or_left, and_iff_left (ne_or_eq _ _), hexp]

/-- The magnitude in units of 2^-149, from the fields of the pattern's number. -/
theorem mag32_eq (x : Bits32) :
    mag32 x = if x.toNat / 2 ^ 23 % 256 = 0 then x.toNat % 2 ^ 23
      else (2 ^ 23 + x.toNat % 2 ^ 23) * 2 ^ (x.toNat / 2 ^ 23 % 256 - 1) := by
  have hzero : expField x = 0 ↔ x.toNat / 2 ^ 23 % 256 = 0 := by
    rw [BitVec.toNat_eq, expField_toNat]
    rfl
  simp only [mag32, hzero, expField_toNat, fracField_toNat]

/-- The exponent of a pattern, moved from IEEE 754's bias to units of 2^-149. -/
theorem two_zpow_sub_eq {e : Nat} (he : e ≠ 0) : (2 : ℚ) ^ ((e : ℤ) - 150) = 2 ^ (e - 1) / 2 ^ 149 := by
  rw [← zpow_natCast, ← zpow_natCast, ← zpow_sub₀ two_ne_zero]
  congr 1
  omega

theorem toRat_val32 (x : Bits32) : (val32 x).toRat = value x := by
  have hmag : (mag32 x : ℚ) / 2 ^ 149 =
      if x.toNat / 2 ^ 23 % 256 = 0 then ((x.toNat % 2 ^ 23 : ℕ) : ℚ) * (2 : ℚ) ^ (-149 : ℤ)
      else ((2 ^ 23 + x.toNat % 2 ^ 23 : ℕ) : ℚ) * (2 : ℚ) ^ (((x.toNat / 2 ^ 23 % 256 : ℕ) : ℤ) - 150) := by
    rw [mag32_eq]
    split
    · rw [div_eq_mul_inv, zpow_neg]
      rfl
    · next hexp => rw [two_zpow_sub_eq hexp, Nat.cast_mul, Nat.cast_pow, Nat.cast_ofNat, mul_div_assoc]
  rw [value, ← hmag, val32, Frac.toRat, signBit, Nat.cast_pow, Nat.cast_ofNat]
  split <;> simp only [Int.cast_neg, Int.cast_natCast, neg_div, neg_mul, one_mul]

theorem toRat_scale (q : Frac) (k : Nat) : (q.scale k).toRat = q.toRat * k := by
  simp [Frac.toRat, Frac.scale, div_mul_eq_mul_div]

/-! ## Rounding to an integer (`00_scope.md` R10) -/

/-- The distance of a quotient from an integer, counted in parts of the denominator. -/
theorem abs_div_sub_eq (a r : Nat) {d : Nat} (hd : 0 < d) :
    |(a : ℚ) / d - r| = (((a : ℤ) - d * r).natAbs : ℚ) / d := by
  have hd' : (0 : ℚ) < d := mod_cast hd
  have hquot : (a : ℚ) / d - r = ((a : ℤ) - d * r : ℤ) / d := by
    push_cast
    field_simp
  rw [hquot, abs_div, abs_of_pos hd', Nat.cast_natAbs, Int.cast_abs]

theorem abs_div_sub_roundNat_le (mode : Config.Rounding) (a : Nat) {d : Nat} (hd : 0 < d) :
    |(a : ℚ) / d - roundNat mode a d| ≤ 1 / 2 := by
  have hnear := roundNat_near mode a hd
  have hdist : ((a : ℤ) - d * roundNat mode a d).natAbs * 2 ≤ 1 * d := by omega
  rw [abs_div_sub_eq a _ hd, div_le_div_iff₀ (mod_cast hd) two_pos]
  exact_mod_cast hdist

/-- A quotient half a unit from an integer is a tie: its remainder is half the denominator. -/
theorem two_mul_mod_of_abs_div_sub {a r d : Nat} (hd : 0 < d) (h : |(a : ℚ) / d - r| = 1 / 2) : 2 * (a % d) = d := by
  rw [abs_div_sub_eq a r hd, div_eq_div_iff (mod_cast hd.ne') two_ne_zero] at h
  have hdist : ((a : ℤ) - d * r).natAbs * 2 = 1 * d := mod_cast h
  have hmod : 2 * a ≡ d [MOD 2 * d] := by
    rw [Nat.modEq_iff_dvd]
    have hends : 2 * (a : ℤ) = 2 * (d * r) + d ∨ 2 * (a : ℤ) = 2 * (d * r) - d := by omega
    rcases hends with habove | hbelow
    · exact ⟨-r, by push_cast; linarith⟩
    · exact ⟨1 - r, by push_cast; linarith⟩
  rw [← Nat.mul_mod_mul_left, hmod, Nat.mod_eq_of_lt (by omega)]

theorem rounds_roundNat (mode : Config.Rounding) (a : Nat) {d : Nat} (hd : 0 < d) :
    rounds mode ((a : ℚ) / d) (roundNat mode a d : ℕ) := by
  rcases (abs_div_sub_roundNat_le mode a hd).lt_or_eq with hlt | hhalf
  · exact .inl hlt
  · have htie := two_mul_mod_of_abs_div_sub hd hhalf
    refine .inr ⟨hhalf, ?_⟩
    cases mode with
    | halfAway =>
      have hup : (a : ℚ) / d < roundNat .halfAway a d := by
        rw [roundNat_halfAway_tie htie, ← Nat.floor_div_eq_div (K := ℚ), Nat.cast_add_one]
        exact Nat.lt_floor_add_one _
      simpa [abs_of_nonneg (by positivity : (0 : ℚ) ≤ (a : ℚ) / d)] using hup
    | halfEven => exact_mod_cast roundNat_halfEven_tie htie

theorem rounds_neg {mode : Config.Rounding} {q : ℚ} {n : ℤ} (h : rounds mode q n) : rounds mode (-q) (-n) := by
  have hdist : |-q - ((-n : ℤ) : ℚ)| = |q - n| := by
    rw [Int.cast_neg, ← neg_sub', abs_neg]
  unfold rounds
  rw [hdist]
  cases mode <;> simpa [rounds] using h

theorem truncates_neg {q : ℚ} {n : ℤ} (h : truncates q n) : truncates (-q) (-n) := by
  simpa [truncates] using h

/-- The model rounds by magnitude and then takes the sign; the rule is the same on both sides of zero. -/
theorem rounds_roundFrac (mode : Config.Rounding) {q : Frac} (hden : 0 < q.den) : rounds mode q.toRat (roundFrac mode q) := by
  obtain ⟨num, den⟩ := q
  have hnat (a : Nat) : roundFrac mode ⟨a, den⟩ = roundNat mode a den := by
    rcases Nat.eq_zero_or_pos a with rfl | hpos
    · simp [roundFrac, roundNat, hden]
    · simp [roundFrac, Int.sign_natCast_of_ne_zero hpos.ne']
  obtain ⟨a, rfl | rfl⟩ := num.eq_nat_or_neg
  · rw [hnat]
    exact rounds_roundNat mode a hden
  · have hneg : roundFrac mode ⟨-a, den⟩ = -(roundNat mode a den : ℤ) := by
      rw [← hnat, roundFrac, roundFrac, Int.sign_neg, Int.natAbs_neg, neg_mul]
    rw [hneg, Frac.toRat, Int.cast_neg, neg_div]
    exact rounds_neg (rounds_roundNat mode a hden)

theorem truncates_truncFrac {q : Frac} (hden : 0 < q.den) : truncates q.toRat (truncFrac q) := by
  obtain ⟨num, den⟩ := q
  have hnat (a : Nat) : truncates ((a : ℚ) / den) (a / den : ℕ) := by
    have hnonneg : (0 : ℚ) ≤ (a : ℚ) / den := by positivity
    rw [← Nat.floor_div_eq_div (K := ℚ), truncates, Int.cast_natCast, Nat.abs_cast, abs_of_nonneg hnonneg]
    exact ⟨Nat.floor_le hnonneg, Nat.lt_floor_add_one _, by positivity⟩
  obtain ⟨a, rfl | rfl⟩ := num.eq_nat_or_neg
  · exact hnat a
  · rw [truncFrac, Int.neg_tdiv, Frac.toRat, Int.cast_neg, neg_div]
    exact truncates_neg (hnat a)

theorem abs_sub_le_of_rounds {mode : Config.Rounding} {q : ℚ} {n : ℤ} (h : rounds mode q n) : |q - n| ≤ 1 / 2 := by
  rcases h with hlt | ⟨heq, -⟩
  · exact hlt.le
  · exact heq.le

/-- Two candidates are neighbours with `q` half way between them, and the tie rule takes one of the two. -/
theorem rounds_unique {mode : Config.Rounding} {q : ℚ} {n m : ℤ} (hn : rounds mode q n) (hm : rounds mode q m) : n = m := by
  by_contra hne
  wlog hlt : n < m generalizing n m
  · exact this hm hn (Ne.symm hne) (by omega)
  have hnq := abs_le.mp (abs_sub_le_of_rounds hn)
  have hmq := abs_le.mp (abs_sub_le_of_rounds hm)
  have hstep : (n : ℚ) + 1 ≤ m := mod_cast hlt
  obtain rfl : q = n + 1 / 2 := by linarith
  obtain rfl : m = n + 1 := by
    have : (m : ℚ) = n + 1 := by linarith
    exact_mod_cast this
  rcases hn with hn | ⟨-, hn⟩
  · norm_num at hn
  rcases hm with hm | ⟨-, hm⟩
  · norm_num at hm
  cases mode with
  | halfAway =>
    have hnsq := sq_lt_sq.mpr hn
    have hmsq := sq_lt_sq.mpr hm
    push_cast at hmsq
    have hneg : n < 0 := by
      have : (n : ℚ) < 0 := by linarith
      exact_mod_cast this
    have hnonneg : -1 < n := by
      have : (-1 : ℚ) < n := by linarith
      exact_mod_cast this
    omega
  | halfEven =>
    simp only at hn hm
    omega

/-- Two candidates have one magnitude, and the sign is that of `q`. -/
theorem truncates_unique {q : ℚ} {n m : ℤ} (hn : truncates q n) (hm : truncates q m) : n = m := by
  obtain ⟨hnle, hnlt, hnsign⟩ := hn
  obtain ⟨hmle, hmlt, hmsign⟩ := hm
  have hle : |n| < |m| + 1 := mod_cast hnle.trans_lt hmlt
  have hge : |m| < |n| + 1 := mod_cast hmle.trans_lt hnlt
  rcases abs_eq_abs.mp (by omega : |n| = |m|) with heq | rfl
  · exact heq
  · have hzero : (m : ℚ) * q = 0 := by
      push_cast at hnsign
      linarith
    have hm0 : m = 0 := by
      rcases mul_eq_zero.mp hzero with hm0 | rfl
      · exact_mod_cast hm0
      · rw [abs_zero] at hmle
        exact_mod_cast abs_nonpos_iff.mp hmle
    rw [hm0, neg_zero]

/-- The integers a statement says by distance are the ones CMP.ENC computes. -/
theorem compIntegers_eq {p : Config.Params} {x0 x1 x2 : Bits32} {o sl t : ℤ}
    (ho : rounds p.compRounding (value x0 * 200) o) (hsl : rounds p.compRounding (value x1 * 10000) sl)
    (ht : truncates (value x2) t) : compIntegers p x0 x1 x2 = (o, sl, t) := by
  have hround (x : Bits32) (k : Nat) :
      rounds p.compRounding (value x * k) (roundFrac p.compRounding ((val32 x).scale k)) := by
    rw [← toRat_val32, ← toRat_scale]
    exact rounds_roundFrac _ (by simp [Frac.scale, val32])
  have htrunc : truncates (value x2) (truncFrac (val32 x2)) := by
    rw [← toRat_val32]
    exact truncates_truncFrac (by simp [val32])
  rw [compIntegers, rounds_unique (hround x0 offsetScale) ho, rounds_unique (hround x1 slopeScale) hsl,
    truncates_unique htrunc ht]

/-! ## CMP.ENC (R202) -/

theorem compInRange_iff (o sl t : ℤ) :
    compInRange (o, sl, t) = true ↔ -32768 ≤ o ∧ o ≤ 32767 ∧ -32768 ≤ sl ∧ sl ≤ 32767 ∧ 0 ≤ t ∧ t ≤ 65535 := by
  simp [compInRange, int16ok, uint16ok, and_assoc]

section CmpEnc

variable {x0 x1 x2 : Bits32}

theorem any_nan_or_inf_iff :
    [x0, x1, x2].any (fun x => isNan32 x || isInf32 x) = true ↔ ¬ (finite x0 ∧ finite x1 ∧ finite x2) := by
  simp only [List.any_cons, List.any_nil, Bool.or_false, Bool.or_eq_true, isNan32_or_isInf32_iff, not_and_or]

theorem exec_cmpEnc_of_not_finite (hfinite : ¬ (finite x0 ∧ finite x1 ∧ finite x2)) (s : State) :
    exec (.cmpEnc x0 x1 x2) s = .next (raise .invalidArgument s) :=
  congrArg Host.Outcome.next (if_pos (any_nan_or_inf_iff.mpr hfinite))

variable {v : ℤ × ℤ × ℤ} (hfinite : finite x0 ∧ finite x1 ∧ finite x2) (hv : compIntegers Config.params x0 x1 x2 = v)
include hfinite hv

theorem exec_cmpEnc_of_inRange (hrange : compInRange v = true) (s : State) :
    exec (.cmpEnc x0 x1 x2) s =
      .next (respond { status := .ok, rword := compWords v, rbyte := (compWords v).flatMap frame } s) := by
  subst hv
  exact congrArg Host.Outcome.next ((if_neg (mt any_nan_or_inf_iff.mp (not_not_intro hfinite))).trans (if_pos hrange))

theorem exec_cmpEnc_of_not_inRange (hrange : ¬ compInRange v = true) (s : State) :
    exec (.cmpEnc x0 x1 x2) s = .next (raise .invalidArgument s) := by
  subst hv
  exact congrArg Host.Outcome.next ((if_neg (mt any_nan_or_inf_iff.mp (not_not_intro hfinite))).trans (if_neg hrange))

end CmpEnc

/-- The chunks of the three registers, as the claims write them. -/
theorem flatMap_frame_compWords (o sl t : ℤ) :
    (compWords (o, sl, t)).flatMap frame =
      framed (BitVec.ofInt 16 o) ++ framed (BitVec.ofInt 16 sl) ++ framed (BitVec.ofInt 16 t) := rfl

theorem be32_eq_append (b0 b1 b2 b3 : Byte) : be32 b0 b1 b2 b3 = b0 ++ b1 ++ b2 ++ b3 :=
  (BitVec.append_assoc (x₁ := b0 ++ b1) (x₂ := b2) (x₃ := b3)).symm

/-- Settles O40: the integers the statement speaks of are the model's, so its checks are the model's, in the same order. -/
theorem cmpEncEncodesTheRoundedRegisters : Obligations.CmpEncEncodesTheRoundedRegisters := by
  refine ⟨?descriptor, fun s x0 x1 x2 => ⟨?notFinite, fun h0 h1 h2 o sl t ho hsl ht => ?finite⟩⟩
  case descriptor =>
    intro b0 b1 b2 b3 b4 b5 b6 b7 b8 b9 b10 b11
    simp only [← be32_eq_append]
    rfl
  case notFinite => exact fun hnot => exec_cmpEnc_of_not_finite hnot s
  case finite =>
    have hv := compIntegers_eq ho hsl ht
    rw [← compInRange_iff]
    refine ⟨fun hrange => ?inRange, fun hrange => exec_cmpEnc_of_not_inRange ⟨h0, h1, h2⟩ hv hrange s⟩
    rw [exec_cmpEnc_of_inRange ⟨h0, h1, h2⟩ hv hrange, flatMap_frame_compWords]
    rfl

end Sys2Proof.Machine

/-! Proofs about the variant register's operations of `45_config.md`: CFG.SEN50, CFG.SEN54 and CFG.SEN55 (R220), and
CFG.RDV (R221).

The descriptors of the group CFG are read once, for every `SEL`: an entry of the table decodes to its operation, any other
`SEL` is reserved. The three writes end in `selectVariant`, whose whole state is said once for every variant. -/

namespace Sys2Proof

open Machine Claims

/-! ## Descriptors of the group CFG (R71, R76, R79) -/

section CfgDescriptor

variable {sel : Nat}

theorem fields_ofNat_cfg (hsel : sel ≤ 15) : fields (BitVec.ofNat 16 (0xB000 + 256 * sel)) = (0xB, sel, 0) := by
  have hnat : (BitVec.ofNat 16 (0xB000 + 256 * sel)).toNat = 0xB000 + 256 * sel := by
    rw [BitVec.toNat_ofNat]
    omega
  simp only [fields, hnat, Prod.mk.injEq]
  omega

/-- An entry of the group's table decodes without operands to its operation. -/
theorem decode_ofNat_cfg {i : Instr} (h : cfgOperation sel = some i) :
    decode (BitVec.ofNat 16 (0xB000 + 256 * sel)) [] = .ok i := by
  have hsel : sel ≤ 2 := exists_cfgOperation_iff.mp ⟨i, h⟩
  have hfields := fields_ofNat_cfg (sel := sel) (by omega)
  rw [decode_eq_ok_iff_fields (by rw [hfields]; rfl), hfields]
  exact Option.bind_eq_some_iff.mpr ⟨i, h, rfl⟩

theorem reserved_ofNat_cfg (hlo : 3 ≤ sel) (hhi : sel ≤ 15) : reserved (BitVec.ofNat 16 (0xB000 + 256 * sel)) := by
  have hbeyond : 2 < sel := hlo
  rw [reserved, fields_ofNat_cfg hhi]
  simp [reservedFields, hbeyond]

end CfgDescriptor

end Sys2Proof

namespace Sys2Proof.Machine

open Claims

/-- With `LEN` operand bytes, a reserved descriptor the host presents raises `ILLEGAL_OP` and changes only the latches. -/
theorem present_host_of_reserved {desc : Word} {din : List Byte} (hreserved : reserved desc)
    (hlen : din.length = (fields desc).2.2) (s : State) : present .host desc din s = .next (raised s 5) := by
  have hcount : decode desc din ≠ .error .operandCount := fun h =>
    (decode_eq_operandCount_iff desc din).mp h (hlen.trans (lenField_toNat desc).symm)
  have hnone : ¬ ∃ i, decode desc din = .ok i := fun h => (exists_decode_eq_ok_iff hlen).mp h hreserved
  rw [present_host_eq_illegalOp hcount hnone, illegalOp_eq_raised]

/-! ## The write of a variant (R220) -/

/-- The byte of a variant, as the claims write it. -/
theorem variantByte_eq (v : Variant) :
    variantByte v = match v with
      | .sen50 => 0
      | .sen54 => 1
      | .sen55 => 2
      | .none => 3 := by
  cases v <;> rfl

/-- The whole state a write ends in: the variant, its byte in `RBYTE`, every other latch cleared. -/
theorem selectVariant_eq (v : Variant) (s : State) :
    selectVariant v s =
      { s with
        variant := v, status := 0, rbyte := [variantByte v], rword := [], rval := [], rflag := false, ru32 := 0 } := rfl

theorem exec_cfgSen50 (s : State) : exec .cfgSen50 s = .next (selectVariant .sen50 s) := rfl

theorem exec_cfgSen54 (s : State) : exec .cfgSen54 s = .next (selectVariant .sen54 s) := rfl

theorem exec_cfgSen55 (s : State) : exec .cfgSen55 s = .next (selectVariant .sen55 s) := rfl

/-- Settles O43: each entry of the group's table writes its own variant, and a `SEL` past the table is reserved. -/
theorem cfgSelectsTheVariant : Obligations.CfgSelectsTheVariant := by
  refine ⟨decode_ofNat_cfg (sel := 0) rfl, decode_ofNat_cfg (sel := 1) rfl, decode_ofNat_cfg (sel := 2) rfl,
    ?reservedSel, fun s => ⟨?sen50, ?sen54, ?sen55⟩⟩
  case reservedSel =>
    intro sel hlo hhi s
    exact present_host_of_reserved (reserved_ofNat_cfg hlo hhi) (by rw [fields_ofNat_cfg hhi]; rfl) s
  case sen50 => rw [exec_cfgSen50, selectVariant_eq, variantByte_eq]
  case sen54 => rw [exec_cfgSen54, selectVariant_eq, variantByte_eq]
  case sen55 => rw [exec_cfgSen55, selectVariant_eq, variantByte_eq]

/-! ## The read of the variant (R221) -/

theorem exec_cfgRdv (s : State) :
    exec .cfgRdv s = .next (respond { status := .ok, rbyte := [variantByte s.variant] } s) := rfl

/-- Settles O44: the read has no gate, and the byte it reports is the variant's in all four cases. -/
theorem cfgRdvReportsTheVariant : Obligations.CfgRdvReportsTheVariant := by
  refine ⟨decode_ofNat_op_length (op := 0xC) (bytes := []) (by decide) (by decide) rfl, fun s => ?_⟩
  rw [exec_cfgRdv, variantByte_eq]
  rfl

end Sys2Proof.Machine

/-! Proofs about the errors of `60_exceptions.md`: what an operation that raises has changed (R246) and what its latches hold
(R243).

Every operation but VAL.BUF and FRM.CHK either responds with OK or raises over the state it was given; VAL.BUF raises over the
invalidated state, and FRM.CHK reports its computed check byte. `exec_error_effect` says so for every operation, and both
statements are read off its three cases. -/

namespace Sys2Proof.Machine

open Claims

/-! ## Answers whose only errors are raises over one state -/

/-- An answer that ends with OK, stops the model, or is some code raised over `base` (R246). -/
def RaisesOnly (base : State) (answer : Result) : Prop :=
  ∀ t, answer = .next t → t.status ≠ 0 → ∃ code, t = raise code base

section RaisesOnly

variable {base : State}

theorem raisesOnly_raise (code : Status) : RaisesOnly base (.next (raise code base)) := by
  rintro _ ⟨⟩ -
  exact ⟨code, rfl⟩

/-- OK is no error, whatever the operation did to the registers. -/
theorem raisesOnly_respond_ok {r : Response} (hok : r.status = .ok) (s : State) :
    RaisesOnly base (.next (respond r s)) := by
  rintro _ ⟨⟩ herror
  exact absurd (congrArg Status.code hok) herror

theorem raisesOnly_respondWithWords {n : Nat} {answer : Vector Word n → Response} (hok : ∀ w, (answer w).status = .ok)
    (s : State) : RaisesOnly base (respondWithWords n answer s) := by
  intro t hnext
  obtain ⟨w, -, rfl⟩ := (respondWithWords_eq_next_iff n answer s t).mp hnext
  exact raisesOnly_respond_ok (hok w) s _ rfl

/-- The three errors of the decoders' prelude are raises, and a record is reported with OK (`43_decode.md` R170). -/
theorem raisesOnly_decodeRecord {gate : Bool} {n : Nat} {answer : Vector Word n → Response}
    (hok : ∀ w, (answer w).status = .ok) (s : State) : RaisesOnly s (decodeRecord gate n answer s) := by
  intro t hnext
  rcases decodeRecord_cases hnext with ⟨-, rfl⟩ | ⟨-, -, rfl⟩ | ⟨-, -, -, rfl⟩ | ⟨-, -, -, w, -, rfl⟩
  · exact raisesOnly_raise .unsupportedVariant _ rfl
  · exact raisesOnly_raise .noData _ rfl
  · exact raisesOnly_raise .invalidArgument _ rfl
  · exact raisesOnly_respond_ok (hok w) s _ rfl

end RaisesOnly

/-! ## The errors of each operation -/

theorem raisesOnly_frmEnc (bytes : List Byte) (s : State) : RaisesOnly s (exec (.frmEnc bytes) s) := by
  by_cases hlen : payloadLength bytes.length
  · rw [exec_frmEnc_of_payloadLength hlen]
    exact raisesOnly_respond_ok rfl s
  · rw [exec_frmEnc_of_not_payloadLength hlen]
    exact raisesOnly_raise .invalidArgument

/-- Both errors of VAL.BUF come after it has invalidated the buffer (`41_validator.md` R120). -/
theorem raisesOnly_valBuf (bytes : List Byte) (s : State) : RaisesOnly (invalidate s) (exec (.valBuf bytes) s) := by
  by_cases hlen : validLength bytes.length
  · rw [exec_valBuf_of_validLength hlen]
    split
    · exact raisesOnly_respond_ok rfl _
    · exact raisesOnly_raise .crcMismatch
  · rw [exec_valBuf_of_not_validLength hlen]
    exact raisesOnly_raise .invalidArgument

theorem raisesOnly_wbufRd (s : State) : RaisesOnly s (exec .wbufRd s) := by
  cases hvalid : s.wvalid with
  | false =>
    rw [exec_wbufRd_of_noCommit hvalid]
    exact raisesOnly_raise .noData
  | true =>
    rw [exec_wbufRd_of_commit hvalid]
    exact raisesOnly_respondWithWords (fun _ => rfl) s

theorem raisesOnly_cmpEnc (x0 x1 x2 : Bits32) (s : State) : RaisesOnly s (exec (.cmpEnc x0 x1 x2) s) := by
  by_cases hfinite : finite x0 ∧ finite x1 ∧ finite x2
  · by_cases hrange : compInRange (compIntegers Config.params x0 x1 x2) = true
    · rw [exec_cmpEnc_of_inRange hfinite rfl hrange]
      exact raisesOnly_respond_ok rfl s
    · rw [exec_cmpEnc_of_not_inRange hfinite rfl hrange]
      exact raisesOnly_raise .invalidArgument
  · rw [exec_cmpEnc_of_not_finite hfinite]
    exact raisesOnly_raise .invalidArgument

/-- The one error that reports something besides its code: FRM.CHK's mismatch (`40_crc.md` R107). -/
theorem eq_respond_of_frmChk_error {hi lo c : Byte} {s t : State} (hnext : exec (.frmChk hi lo c) s = .next t)
    (herror : t.status ≠ 0) : t = respond { status := .crcMismatch, rbyte := [check hi lo] } s := by
  by_cases hmatch : check hi lo = c
  · rw [exec_frmChk_of_match hmatch] at hnext
    cases hnext
    exact absurd rfl herror
  · rw [exec_frmChk_of_mismatch hmatch] at hnext
    cases hnext
    rfl

/-! ## What any operation has done where it ends in an error -/

/-- Everything an operation that ends with a code other than OK can have done. -/
inductive ErrorEffect (i : Instr) (s t : State) : Prop
  /-- VAL.BUF: the commit is gone, then the raise. -/
  | invalidated (bytes : List Byte) (code : Status) (hinstr : i = .valBuf bytes) (h : t = raise code (invalidate s))
  /-- FRM.CHK: the mismatch with the computed check byte. -/
  | mismatch (hi lo c : Byte) (hinstr : i = .frmChk hi lo c)
      (h : t = respond { status := .crcMismatch, rbyte := [check hi lo] } s)
  /-- Every other operation: the raise alone. -/
  | raised (code : Status) (hvalBuf : ¬ ∃ bytes, i = .valBuf bytes) (hfrmChk : ¬ ∃ hi lo c, i = .frmChk hi lo c)
      (h : t = raise code s)

theorem raisesOnly_exec {i : Instr} (hvalBuf : ¬ ∃ bytes, i = .valBuf bytes) (hfrmChk : ¬ ∃ hi lo c, i = .frmChk hi lo c)
    (s : State) : RaisesOnly s (exec i s) := by
  cases i with
  | valBuf bytes => exact absurd ⟨bytes, rfl⟩ hvalBuf
  | frmChk hi lo c => exact absurd ⟨hi, lo, c, rfl⟩ hfrmChk
  | crcInit | crcFeed bytes | crcBuf bytes => exact raisesOnly_respond_ok rfl _
  | frmEnc bytes => exact raisesOnly_frmEnc bytes s
  | wbufRd => exact raisesOnly_wbufRd s
  | cvtMc raw | cvtNc raw | cvtTps raw | cvtRh raw | cvtT raw | cvtVoc raw | cvtNox raw | cvtRvoc raw | cvtRnox raw
  | cvtRrh raw | cvtRt raw => exact raisesOnly_respond_ok rfl s
  | decMv50 | decMv54 | decMv55 | decRaw => exact raisesOnly_decodeRecord (fun _ => rfl) s
  | decPm | decRdy | decSts | decStr | decCmp => exact raisesOnly_decodeRecord (gate := true) (fun _ => rfl) s
  | cmpEnc x0 x1 x2 => exact raisesOnly_cmpEnc x0 x1 x2 s
  | cfgSen50 | cfgSen54 | cfgSen55 | cfgRdv => exact raisesOnly_respond_ok rfl _

theorem exec_error_effect {i : Instr} {s t : State} (hnext : exec i s = .next t) (herror : t.status ≠ 0) :
    ErrorEffect i s t := by
  by_cases hvalBuf : ∃ bytes, i = .valBuf bytes
  · obtain ⟨bytes, rfl⟩ := hvalBuf
    obtain ⟨code, ht⟩ := raisesOnly_valBuf bytes s t hnext herror
    exact .invalidated bytes code rfl ht
  · by_cases hfrmChk : ∃ hi lo c, i = .frmChk hi lo c
    · obtain ⟨hi, lo, c, rfl⟩ := hfrmChk
      exact .mismatch hi lo c rfl (eq_respond_of_frmChk_error hnext herror)
    · obtain ⟨code, ht⟩ := raisesOnly_exec hvalBuf hfrmChk s t hnext herror
      exact .raised code hvalBuf hfrmChk ht

/-! ## The statements -/

/-- Settles O53: a raise keeps the registers of the state it is made over, which only VAL.BUF has changed before. -/
theorem errorsChangeOnlyWhatPrecedesThem : Obligations.ErrorsChangeOnlyWhatPrecedesThem := by
  intro i s t hnext herror
  cases exec_error_effect hnext herror with
  | invalidated bytes code hinstr h =>
    subst h
    exact ⟨rfl, rfl, rfl, fun _ => ⟨rfl, rfl, rfl⟩, fun hvalBuf => absurd ⟨bytes, hinstr⟩ hvalBuf⟩
  | mismatch hi lo c hinstr h =>
    subst hinstr h
    exact ⟨rfl, rfl, rfl, by simp, fun _ => ⟨rfl, rfl, rfl⟩⟩
  | raised code hvalBuf hfrmChk h =>
    subst h
    exact ⟨rfl, rfl, rfl, fun hsome => absurd hsome hvalBuf, fun _ => ⟨rfl, rfl, rfl⟩⟩

/-- Settles O54: a raise names no port, and FRM.CHK's mismatch names `RBYTE` alone. -/
theorem errorsRecordOnlyTheirCode : Obligations.ErrorsRecordOnlyTheirCode := by
  intro i s t hnext herror
  cases exec_error_effect hnext herror with
  | invalidated bytes code hinstr h =>
    subst hinstr h
    exact ⟨rfl, rfl, rfl, rfl, by simp, fun _ => rfl⟩
  | mismatch hi lo c hinstr h =>
    subst hinstr h
    refine ⟨rfl, rfl, rfl, rfl, ?_, fun hfrmChk => absurd ⟨hi, lo, c, rfl⟩ hfrmChk⟩
    rintro _ _ _ ⟨⟩
    rfl
  | raised code hvalBuf hfrmChk h =>
    subst h
    exact ⟨rfl, rfl, rfl, rfl, fun hi lo c hinstr => absurd ⟨hi, lo, c, hinstr⟩ hfrmChk, fun _ => rfl⟩

end Sys2Proof.Machine

/-! Proofs about the encoding of `30_encoding.md`: decoding and encoding invert each other on well-formed operations (R70 to
R80).

The two tables are tied field by field: `decodeFields_encoded` reads an operation back from its own fields, and the fields an
operation is read from are its `opSel` and `operandBytes`. -/

namespace Sys2Proof

open Machine Claims

/-! ## Decoding what is encoded -/

/-- The fields and bytes an operation encodes to are those it is decoded from. -/
theorem decodeFields_encoded (i : Instr) :
    decodeFields (opSel i).1.toNat (opSel i).2.toNat (operandBytes i) = some i := by
  cases i with
  | crcInit | wbufRd | cfgRdv => rfl
  | crcFeed bytes | crcBuf bytes | frmEnc bytes | valBuf bytes => rfl
  | frmChk hi lo check => rfl
  | cvtMc raw | cvtNc raw | cvtTps raw | cvtRh raw | cvtT raw | cvtVoc raw | cvtNox raw | cvtRvoc raw | cvtRnox raw
  | cvtRrh raw | cvtRt raw =>
    simp [decodeFields, opSel, operandBytes, cvtOperation, rawOperand]
  | decMv50 | decMv54 | decMv55 | decPm | decRaw | decRdy | decSts | decStr | decCmp => rfl
  | cmpEnc x0 x1 x2 =>
    simp [decodeFields, opSel, operandBytes, patternOperands, bytes32, be32_bytes32]
  | cfgSen50 | cfgSen54 | cfgSen55 => rfl

/-- Settles O7: the operand count fits `LEN`, and the descriptor's fields and the operand bytes are the operation's own. -/
theorem decodeOfEncodeIsIdentity : Obligations.DecodeOfEncodeIsIdentity := by
  intro i hwf
  refine (decode_eq_ok_iff _ _ i).mpr ⟨Laws.OperandCount.all i hwf, ?_⟩
  simpa [encode] using decodeFields_encoded i

/-! ## Encoding what is decoded -/

/-- `OP` and `SEL` of the encoder's table are those of the opcode map (R78). -/
theorem opSel_toNat (i : Instr) :
    (opSel i).1.toNat = (opcodeLine i).1 ∧ (opSel i).2.toNat = (opcodeLine i).2.1 := by
  cases i <;> exact ⟨rfl, rfl⟩

theorem wf_iff_length_operandBytes (i : Instr) : i.wf = true ↔ (operandBytes i).length ≤ 255 := by
  cases i <;> simp [Instr.wf, operandBytes, fitsLen, bytes32]

section Tables

variable {sel : Nat}

theorem operandBytes_of_cvtOperation {op : Word → Instr} (h : cvtOperation sel = some op) (raw : Word) :
    operandBytes (op raw) = [hi8 raw, lo8 raw] := by
  unfold cvtOperation at h
  split at h <;> cases h <;> rfl

theorem operandBytes_of_decOperation {i : Instr} (h : decOperation sel = some i) : operandBytes i = [] := by
  unfold decOperation at h
  split at h <;> cases h <;> rfl

theorem operandBytes_of_cfgOperation {i : Instr} (h : cfgOperation sel = some i) : operandBytes i = [] := by
  unfold cfgOperation at h
  split at h <;> cases h <;> rfl

end Tables

/-- No operand byte is lost or made up: the operation decoded has exactly the bytes it is decoded from. -/
theorem operandBytes_of_decodeFields {op sel : Nat} {din : List Byte} {i : Instr}
    (h : decodeFields op sel din = some i) : operandBytes i = din := by
  match op with
  | 0x1 | 0x7 | 0xC =>
    obtain ⟨-, hno⟩ := selZero_eq_some_iff.mp h
    obtain ⟨rfl, rfl⟩ := noOperand_eq_some_iff.mp hno
    rfl
  | 0x2 | 0x3 | 0x4 | 0x6 =>
    obtain ⟨-, hbytes⟩ := selZero_eq_some_iff.mp h
    cases hbytes
    rfl
  | 0x5 =>
    obtain ⟨-, hchunk⟩ := selZero_eq_some_iff.mp h
    obtain ⟨hi, lo, check, rfl, rfl⟩ := chunkOperand_eq_some_iff.mp hchunk
    rfl
  | 0xA =>
    obtain ⟨-, hpatterns⟩ := selZero_eq_some_iff.mp h
    obtain ⟨b0, b1, b2, b3, b4, b5, b6, b7, b8, b9, b10, b11, rfl, rfl⟩ := patternOperands_eq_some_iff.mp hpatterns
    simp only [operandBytes, bytes32_be32, List.cons_append, List.nil_append]
  | 0x8 =>
    obtain ⟨f, hf, hraw⟩ := Option.bind_eq_some_iff.mp h
    obtain ⟨hi, lo, rfl, rfl⟩ := rawOperand_eq_some_iff.mp hraw
    rw [operandBytes_of_cvtOperation hf, hi8_cat16, lo8_cat16]
  | 0x9 =>
    obtain ⟨j, hj, hno⟩ := Option.bind_eq_some_iff.mp h
    obtain ⟨rfl, rfl⟩ := noOperand_eq_some_iff.mp hno
    exact operandBytes_of_decOperation hj
  | 0xB =>
    obtain ⟨j, hj, hno⟩ := Option.bind_eq_some_iff.mp h
    obtain ⟨rfl, rfl⟩ := noOperand_eq_some_iff.mp hno
    exact operandBytes_of_cfgOperation hj
  | 0x0 | n + 13 => simp [decodeFields] at h

/-- Settles O8: a descriptor is its three fields, and an operation decoded from fields and bytes encodes to the same fields
and bytes. -/
theorem encodeOfDecodeIsIdentity : Obligations.EncodeOfDecodeIsIdentity := by
  intro desc din i hdecode
  obtain ⟨hlen, hfields⟩ := (decode_eq_ok_iff desc din i).mp hdecode
  have hbytes := operandBytes_of_decodeFields hfields
  obtain ⟨hop, hsel⟩ := opcodeLine_of_decodeFields hfields
  obtain ⟨hop', hsel'⟩ := opSel_toNat i
  have hfits : din.length ≤ 255 := by omega
  refine ⟨(wf_iff_length_operandBytes i).mpr (hbytes ▸ hfits), ?_⟩
  have hlenField : BitVec.ofNat 8 din.length = lenField desc := by simp [hlen]
  rw [encode, hbytes, BitVec.eq_of_toNat_eq (hop'.trans hop), BitVec.eq_of_toNat_eq (hsel'.trans hsel), hlenField,
    mkDesc_fields]

/-- Settles O9: each descriptor is written out from its fields, so the decoder's tables are read at constants. -/
theorem sampleDescriptorsDecode : Obligations.SampleDescriptorsDecode :=
  ⟨rfl, rfl, rfl, rfl, rfl, rfl, rfl, rfl, rfl⟩

end Sys2Proof

/-! Proofs about what one step does: the reset input (`70_reset_and_hazards.md` R270), the operation presented (`00_scope.md`
R12), the operand count (R284) and the wait (R271). `step_cases` says once what a step that goes on can have been. -/

namespace Sys2Proof.Machine

open Claims

/-- Settles O2: the oldest input is the reset, which writes every register and leaves the younger inputs. -/
theorem resetInputRestoresEveryRegister : Obligations.ResetInputRestoresEveryRegister :=
  fun _ _ hinputs => step_of_inputs_cons hinputs

section Present

variable {desc : Word} {din : List Byte} {i : Instr}

theorem present_host_of_decode_ok (hdecode : decode desc din = .ok i) (s : State) :
    present .host desc din s = exec i s := by
  simp only [present, hdecode]

theorem present_host_of_length_ne (hlen : din.length ≠ (lenField desc).toNat) (s : State) :
    present .host desc din s = .refused .operandCount := by
  simp only [present, (decode_eq_operandCount_iff desc din).mpr hlen]

end Present

/-- Settles O3: the step presents the pair, and the block runs the operation it decodes to. -/
theorem stepRunsThePresentedOperation : Obligations.StepRunsThePresentedOperation := by
  intro s desc din rest i hinputs hdecode
  rw [step_of_inputs_operation hinputs, present_host_of_decode_ok hdecode]

/-- Settles O4: the table word is put before the other inputs, so the step takes it and leaves the state as it was. -/
theorem tableWordIsRunByTheNextStep : Obligations.TableWordIsRunByTheNextStep := by
  intro s nbits w i hword
  have hdecode := (decodeTableWord_eq_some_iff nbits w i).mp hword
  exact stepRunsThePresentedOperation (s.withFetchWord nbits w) _ _ s.inputs i rfl hdecode

/-- Settles O10: the operand count is checked before anything is read from the descriptor's table. -/
theorem wrongOperandCountIsRefused : Obligations.WrongOperandCountIsRefused := by
  intro s desc din rest hinputs hlen
  rw [step_of_inputs_operation hinputs, present_host_of_length_ne ((lenField_toNat desc).symm ▸ hlen)]

/-- Settles O12: with no input there is nothing to take. -/
theorem waitingBlockKeepsItsState : Obligations.WaitingBlockKeepsItsState := by
  intro s hinputs
  simp only [step, hinputs]

/-- Everything a step that goes on can have been. -/
inductive StepCase (s t : State) : Prop
  /-- The wait (R271). -/
  | wait (hinputs : s.inputs = []) (h : t = s)
  /-- The reset input (R270). -/
  | reset (rest : List Input) (hinputs : s.inputs = .reset :: rest) (h : t = assertReset { s with inputs := rest })
  /-- An operation of the table. -/
  | operation (desc : Word) (din : List Byte) (rest : List Input) (i : Instr)
      (hinputs : s.inputs = .operation .host desc din :: rest) (h : exec i { s with inputs := rest } = .next t)
  /-- A reserved descriptor (`30_encoding.md` R79). -/
  | reserved (desc : Word) (din : List Byte) (rest : List Input) (hinputs : s.inputs = .operation .host desc din :: rest)
      (h : t = illegalOp { s with inputs := rest })

/-- What the block does with a pair the host presents: the count is refused, an operation runs, anything else is illegal. -/
theorem present_host_cases (desc : Word) (din : List Byte) (s : State) :
    (din.length ≠ (lenField desc).toNat ∧ present .host desc din s = .refused .operandCount) ∨
    (∃ i, present .host desc din s = exec i s) ∨ present .host desc din s = .next (illegalOp s) := by
  by_cases hlen : din.length = (lenField desc).toNat
  · refine .inr ?_
    by_cases hdecode : ∃ i, decode desc din = .ok i
    · obtain ⟨i, hi⟩ := hdecode
      exact .inl ⟨i, present_host_of_decode_ok hi s⟩
    · exact .inr (present_host_eq_illegalOp (fun h => (decode_eq_operandCount_iff desc din).mp h hlen) hdecode s)
  · exact .inl ⟨hlen, present_host_of_length_ne hlen s⟩

theorem step_cases {s t : State} (h : step s = .next t) : StepCase s t := by
  match hinputs : s.inputs with
  | [] =>
    rw [waitingBlockKeepsItsState s hinputs] at h
    cases h
    exact .wait hinputs rfl
  | .reset :: rest =>
    rw [step_of_inputs_cons hinputs] at h
    cases h
    exact .reset rest hinputs rfl
  | .operation .secondHost desc din :: rest =>
    rw [step_of_inputs_operation hinputs] at h
    cases h
  | .operation .host desc din :: rest =>
    rw [step_of_inputs_operation hinputs] at h
    rcases present_host_cases desc din { s with inputs := rest } with ⟨-, hrefused⟩ | ⟨i, hexec⟩ | hillegal
    · rw [hrefused] at h
      cases h
    · exact .operation desc din rest i hinputs (hexec ▸ h)
    · rw [hillegal] at h
      cases h
      exact .reserved desc din rest hinputs rfl

end Sys2Proof.Machine

/-! Proofs about the readers of the word buffer (`10_state.md` R26): they stop exactly on an entry that is no word, and no
other operation stops. -/

namespace Sys2Proof.Machine

open Claims

theorem missingEntry_iff (s : State) (n : Nat) : missingEntry s n ↔ committedWords n s = none := by
  have hentry (j : Nat) : wbufEntry s j = none ↔ ∀ w, s.wbuf[j]? ≠ some (some w) := by
    simp only [Option.eq_none_iff_forall_ne_some, ne_eq, wbufEntry_eq_some_iff]
  rw [committedWords_eq_none_iff, missingEntry, Fin.exists_iff]
  simp only [hentry, exists_prop]

/-- A record decoder is the prelude with its gate, its count and some record. The gate of DEC.RAW stands in the model and in the
claims under two names. -/
theorem exec_decoder {d : Instr × (Variant → Bool) × Nat} (hd : d ∈ decoders) :
    ∃ answer : Vector Word d.2.2 → Response, (∀ w, (answer w).status = .ok) ∧
      ∀ s, exec d.1 s = decodeRecord (d.2.1 s.variant) d.2.2 answer s := by
  simp only [decoders, List.mem_cons, List.not_mem_nil, or_false] at hd
  rcases hd with rfl | rfl | rfl | rfl | rfl | rfl | rfl | rfl | rfl
  case inr.inr.inr.inr.inl =>
    exact ⟨rawRecord Config.params, fun _ => rfl,
      fun s => congrArg (decodeRecord · 4 _ s) (inRawVariants_eq_rawGateUnder _ s.variant)⟩
  all_goals exact ⟨_, fun _ => rfl, fun _ => rfl⟩

/-- The operations that read no entry of the buffer go on in every state. -/
theorem exec_goesOn_or_reads (i : Instr) :
    (∀ s, ∃ t, exec i s = .next t) ∨ i = .wbufRd ∨ ∃ d ∈ decoders, i = d.1 := by
  cases i with
  | crcInit | crcFeed bytes | crcBuf bytes => exact .inl fun _ => ⟨_, rfl⟩
  | frmEnc bytes =>
    refine .inl fun s => ?_
    by_cases hlen : payloadLength bytes.length
    · exact ⟨_, exec_frmEnc_of_payloadLength hlen s⟩
    · exact ⟨_, exec_frmEnc_of_not_payloadLength hlen s⟩
  | frmChk hi lo c =>
    refine .inl fun s => ?_
    by_cases hmatch : check hi lo = c
    · exact ⟨_, exec_frmChk_of_match hmatch s⟩
    · exact ⟨_, exec_frmChk_of_mismatch hmatch s⟩
  | valBuf bytes =>
    refine .inl fun s => ?_
    by_cases hlen : validLength bytes.length
    · rw [exec_valBuf_of_validLength hlen]
      split <;> exact ⟨_, rfl⟩
    · exact ⟨_, exec_valBuf_of_not_validLength hlen s⟩
  | wbufRd => exact .inr (.inl rfl)
  | cvtMc raw | cvtNc raw | cvtTps raw | cvtRh raw | cvtT raw | cvtVoc raw | cvtNox raw | cvtRvoc raw | cvtRnox raw
  | cvtRrh raw | cvtRt raw => exact .inl fun _ => ⟨_, rfl⟩
  | decMv50 | decMv54 | decMv55 | decPm | decRaw | decRdy | decSts | decStr | decCmp =>
    exact .inr (.inr (by simp [decoders]))
  | cmpEnc x0 x1 x2 | cfgSen50 | cfgSen54 | cfgSen55 | cfgRdv => exact .inl fun _ => ⟨_, rfl⟩

theorem respondWithWords_outcome (n : Nat) (answer : Vector Word n → Response) (s : State) :
    (∃ t, respondWithWords n answer s = .next t) ∨
      (respondWithWords n answer s = .fault .wbufEntryNone ∧ missingEntry s n) := by
  rw [missingEntry_iff, respondWithWords]
  cases committedWords n s with
  | some w => exact .inl ⟨_, rfl⟩
  | none => exact .inr ⟨rfl, rfl⟩

/-- Past the three checks a decoder is the read of its words. -/
theorem decodeRecord_of_checks {gate : Bool} {n : Nat} {s : State} (answer : Vector Word n → Response)
    (hgate : gate = true) (hvalid : s.wvalid = true) (hcount : s.wcount.toNat = n) :
    decodeRecord gate n answer s = respondWithWords n answer s := by
  simp [decodeRecord, hgate, hvalid, hcount]

/-- The one way an operation stops: a commit whose count takes in an entry that is no word (log 8). -/
theorem exec_outcome (i : Instr) (s : State) :
    (∃ t, exec i s = .next t) ∨
      (exec i s = .fault .wbufEntryNone ∧ s.wvalid = true ∧ missingEntry s s.wcount.toNat) := by
  rcases exec_goesOn_or_reads i with hgoesOn | rfl | ⟨d, hd, rfl⟩
  · exact .inl (hgoesOn s)
  · cases hvalid : s.wvalid with
    | false => exact .inl ⟨_, exec_wbufRd_of_noCommit hvalid⟩
    | true =>
      rw [exec_wbufRd_of_commit hvalid]
      simpa using respondWithWords_outcome s.wcount.toNat _ s
  · obtain ⟨answer, -, hexec⟩ := exec_decoder hd
    rw [hexec]
    cases hgate : d.2.1 s.variant with
    | false => exact .inl ⟨_, decodeRecord_of_closedGate rfl⟩
    | true =>
      cases hvalid : s.wvalid with
      | false => exact .inl ⟨_, decodeRecord_of_noCommit rfl hvalid⟩
      | true =>
        by_cases hcount : s.wcount.toNat = d.2.2
        · rw [decodeRecord_of_checks answer rfl hvalid hcount, hcount]
          simpa using respondWithWords_outcome d.2.2 answer s
        · exact .inl ⟨_, decodeRecord_of_wrongCount rfl hvalid hcount⟩

/-- Settles O39: past its checks a reader answers with the words or faults, and no other way to stop is left. -/
theorem readersFaultOnlyOnMissingEntries : Obligations.ReadersFaultOnlyOnMissingEntries := by
  refine ⟨?decoder, ?wbufRd, ?fault, ?refused⟩
  case decoder =>
    intro d hd s hgate hvalid hcount hmissing
    obtain ⟨answer, -, hexec⟩ := exec_decoder hd
    rw [hexec]
    exact (decodeRecord_eq_fault_iff _ _ answer s).mpr ⟨hgate, hvalid, hcount, (missingEntry_iff s _).mp hmissing⟩
  case wbufRd =>
    intro s hvalid hmissing
    rw [exec_wbufRd_of_commit hvalid, respondWithWords, (missingEntry_iff s _).mp hmissing]
  case fault =>
    intro i s r hfault
    rcases exec_outcome i s with ⟨t, hnext⟩ | ⟨-, hmissing⟩
    · exact absurd (hnext.symm.trans hfault) nofun
    · exact hmissing
  case refused =>
    intro i s r hrefused
    rcases exec_outcome i s with ⟨t, hnext⟩ | ⟨hfault, -⟩
    · exact absurd (hnext.symm.trans hrefused) nofun
    · exact absurd (hfault.symm.trans hrefused) nofun

end Sys2Proof.Machine

/-! Proofs about the invariant of the block (`10_state.md` R27, R31, R33) and about runs of a host that keeps its duties
(`60_exceptions.md` R253, `70_reset_and_hazards.md` R284, R285).

An operation ends in a response over the registers it was given, over an invalidated buffer or over a new commit
(`exec_effect`); each of these meets the commit invariant, and a response that fits meets the latches' bounds. -/

namespace Sys2Proof.Machine

open Sys2Proof.Safety Claims

/-! ## The invariant -/

theorem commitOk_invalidate (s : State) : CommitOk (invalidate s) := by
  simp [CommitOk]

theorem commitOk_commit {words : List Word} (hpos : 1 ≤ words.length) (hle : words.length ≤ 16) (s : State) :
    CommitOk (commit words s) := by
  have hcount : (commit words s).wcount.toNat = words.length := by
    rw [commit_wcount, BitVec.toNat_ofNat]
    omega
  refine ⟨by simp, fun _ => ?_⟩
  rw [hcount]
  refine ⟨hpos, hle, fun j => ?_⟩
  simp

theorem latchesOk_respond {r : Response} (hfits : responseFits r) (s : State) : LatchesOk (respond r s) :=
  ⟨status_code_le_five r.status, hfits⟩

/-- A response writes only latches, so the commit invariant is that of the state it is made over. -/
theorem blockInv_respond {r : Response} {s : State} (hcommit : CommitOk s) (hfits : responseFits r) :
    BlockInv (respond r s) :=
  ⟨hcommit, latchesOk_respond hfits s⟩

theorem blockInv_of_exec {i : Instr} {s t : State} (hinv : BlockInv s) (h : exec i s = .next t) : BlockInv t := by
  obtain ⟨hcommit, -⟩ := hinv
  obtain ⟨r, hfits, heffect⟩ := exec_effect h
  cases heffect with
  | latches h => exact h ▸ blockInv_respond hcommit hfits
  | accumulator a hi h => exact h ▸ blockInv_respond (s := { s with acc := a }) hcommit hfits
  | invalidated bytes hi h => exact h ▸ blockInv_respond (commitOk_invalidate s) hfits
  | committed bytes words hi hpos hle h => exact h ▸ blockInv_respond (commitOk_commit hpos hle s) hfits
  | variant v hi h => exact h ▸ blockInv_respond (s := { s with variant := v }) hcommit hfits

/-- Settles O45: nothing is committed at reset, and every latch is empty. -/
theorem resetStateMeetsTheInvariant : Obligations.ResetStateMeetsTheInvariant := by
  have hlatches : LatchesOk State.reset := by decide
  exact ⟨commitOk_invalidate State.reset, hlatches⟩

/-- Settles O46: a wait changes nothing, reset gives the reset values, and an operation or a reserved descriptor ends in a
response. -/
theorem everyStepKeepsTheInvariant : Obligations.EveryStepKeepsTheInvariant := by
  intro s t hinv h
  cases step_cases h with
  | wait hinputs h => exact h ▸ hinv
  | reset rest hinputs h => exact h ▸ resetStateMeetsTheInvariant
  | operation desc din rest i hinputs h => exact blockInv_of_exec (s := { s with inputs := rest }) hinv h
  | reserved desc din rest hinputs h =>
    exact h ▸ blockInv_respond (s := { s with inputs := rest }) hinv.1 (by simp [responseFits])

/-! ## Progress -/

/-- Under the invariant every entry below the count is a word, so no reader stops. -/
theorem not_missingEntry_of_commitOk {s : State} (hcommit : CommitOk s) (hvalid : s.wvalid = true) :
    ¬ missingEntry s s.wcount.toNat := by
  rintro ⟨j, hj, hnone⟩
  obtain ⟨-, hle, hwords⟩ := hcommit.2 hvalid
  have hj16 : j < 16 := by omega
  obtain ⟨w, hw⟩ := Option.isSome_iff_exists.mp ((hwords ⟨j, hj16⟩).mpr hj)
  exact hnone w (by simpa [hj16] using hw)

theorem exec_goesOn {s : State} (hcommit : CommitOk s) (i : Instr) : ∃ t, exec i s = .next t := by
  rcases exec_outcome i s with hnext | ⟨-, hvalid, hmissing⟩
  · exact hnext
  · exact absurd hmissing (not_missingEntry_of_commitOk hcommit hvalid)

theorem exec_inputs {i : Instr} {s t : State} (h : exec i s = .next t) : t.inputs = s.inputs := by
  obtain ⟨r, -, heffect⟩ := exec_effect h
  cases heffect with
  | latches h | accumulator a hi h | invalidated bytes hi h | committed bytes words hi hpos hle h | variant v hi h =>
    subst h
    rfl

/-- A step that goes on consumes one input, or waits where there is none. -/
theorem step_inputs {s t : State} (h : step s = .next t) : t.inputs = s.inputs.tail := by
  cases step_cases h with
  | wait hinputs h => simp [h, hinputs]
  | reset rest hinputs h => simp [h, hinputs]
  | operation desc din rest i hinputs h => simp [exec_inputs h, hinputs]
  | reserved desc din rest hinputs h => simp [h, hinputs]

/-- A dutiful input is refused for neither reason, and under the invariant no operation faults. -/
theorem step_goesOn {s : State} (hcommit : CommitOk s) (hduty : HostDutiful s) : StepGoesOn s := by
  match hinputs : s.inputs with
  | [] => exact ⟨s, waitingBlockKeepsItsState s hinputs⟩
  | .reset :: rest => exact ⟨_, step_of_inputs_cons hinputs⟩
  | .operation .secondHost desc din :: rest => simp [HostDutiful, hinputs, dutiful] at hduty
  | .operation .host desc din :: rest =>
    rw [StepGoesOn, step_of_inputs_operation hinputs]
    rcases present_host_cases desc din { s with inputs := rest } with ⟨hlen, -⟩ | ⟨i, hexec⟩ | hillegal
    · simp [HostDutiful, hinputs, dutiful, hlen] at hduty
    · rw [hexec]
      exact exec_goesOn (s := { s with inputs := rest }) hcommit i
    · exact ⟨_, hillegal⟩

/-- Settles O47: the step goes on, and it keeps the invariant and the younger inputs. -/
theorem dutifulHostNeverStopsTheBlock : Obligations.DutifulHostNeverStopsTheBlock := by
  intro s hinv hduty
  obtain ⟨t, hstep⟩ := step_goesOn hinv.1 hduty
  have hinputs := step_inputs hstep
  refine ⟨t, hstep, everyStepKeepsTheInvariant s t hinv hstep, ?_, hinputs⟩
  rw [HostDutiful, hinputs]
  exact List.all_eq_true.mpr fun input hmem => List.all_eq_true.mp hduty input (List.mem_of_mem_tail hmem)

/-! ## Runs -/

theorem run_succ_of_step {s t : State} (h : step s = .next t) (k : Nat) :
    Host.Core.run core (k + 1) s = Host.Core.run core k t := by
  have hcore : core.step s = .next t := h
  simp only [Host.Core.run, hcore]

/-- As many steps as there are inputs consume them all. -/
theorem run_of_dutiful {s : State} (hinv : BlockInv s) (hduty : HostDutiful s) :
    ∃ t : State, Host.Core.run core s.inputs.length s = .next t ∧ t.inputs = [] ∧ BlockInv t := by
  induction hk : s.inputs.length generalizing s with
  | zero => exact ⟨s, rfl, List.length_eq_zero_iff.mp hk, hinv⟩
  | succ k ih =>
    obtain ⟨t, hstep, htinv, htduty, htinputs⟩ := dutifulHostNeverStopsTheBlock s hinv hduty
    rw [run_succ_of_step hstep]
    exact ih htinv htduty (by simp [htinputs, hk])

/-- Settles O48: the reset state meets the invariant whatever is presented, and every step consumes one input. -/
theorem everyDutifulRunCompletes : Obligations.EveryDutifulRunCompletes :=
  fun inputs hduty => run_of_dutiful (s := { State.reset with inputs := inputs }) resetStateMeetsTheInvariant hduty

end Sys2Proof.Machine

/-! Proofs about the frame of every operation: who writes `ACC`, `VARIANT` and the commit (`10_state.md` R22, R23, R35), and
that only reset gives the variant NONE (`45_config.md` R220). -/

namespace Sys2Proof.Machine

open Claims

theorem usesAcc_iff (i : Instr) : usesAcc i ↔ writesAcc i = true := by
  cases i <;> simp [usesAcc, writesAcc]

/-- Settles O51: each effect writes its own registers, and an operation with that effect is one the table gives them. -/
theorem registerWritersFollowTheAccessTable : Obligations.RegisterWritersFollowTheAccessTable := by
  intro i s t hnext
  obtain ⟨r, -, heffect⟩ := exec_effect hnext
  cases heffect with
  | latches h =>
    subst h
    exact ⟨.inl rfl, .inl rfl, .inl ⟨rfl, rfl, rfl⟩, rfl⟩
  | accumulator a hi h =>
    subst h
    exact ⟨.inr ((usesAcc_iff i).mpr hi), .inl rfl, .inl ⟨rfl, rfl, rfl⟩, rfl⟩
  | invalidated bytes hi h =>
    subst h
    exact ⟨.inl rfl, .inl rfl, .inr ⟨bytes, hi⟩, rfl⟩
  | committed bytes words hi hpos hle h =>
    subst h
    exact ⟨.inl rfl, .inl rfl, .inr ⟨bytes, hi⟩, rfl⟩
  | variant v hi h =>
    subst h
    exact ⟨.inl rfl, .inr (hi.imp And.left (.imp And.left And.left)), .inl ⟨rfl, rfl, rfl⟩, rfl⟩

theorem exec_variant_ne_none {i : Instr} {s t : State} (hs : s.variant ≠ .none) (h : exec i s = .next t) :
    t.variant ≠ .none := by
  obtain ⟨r, -, heffect⟩ := exec_effect h
  cases heffect with
  | latches h | accumulator a hi h | invalidated bytes hi h | committed bytes words hi hpos hle h => exact h ▸ hs
  | variant v hi h =>
    subst h
    rcases hi with ⟨-, rfl⟩ | ⟨-, rfl⟩ | ⟨-, rfl⟩ <;> exact nofun

/-- Settles O52: no other step gives the variant NONE. -/
theorem variantNoneComesOnlyFromReset : Obligations.VariantNoneComesOnlyFromReset := by
  intro s t hs hstep ht
  cases step_cases hstep with
  | wait hinputs h =>
    subst h
    exact absurd ht hs
  | reset rest hinputs h => exact ⟨rest, hinputs⟩
  | operation desc din rest i hinputs h => exact absurd ht (exec_variant_ne_none (s := { s with inputs := rest }) hs h)
  | reserved desc din rest hinputs h =>
    subst h
    exact absurd ht hs

/-! ## `ACC` belongs to the accumulator unit (R22, `70_reset_and_hazards.md` R281) -/

/-- The state with another value in `ACC`. -/
def withAcc (a : Byte) (s : State) : State := { s with acc := a }

/-- The outcome with another value in the next state's `ACC`. -/
def outcomeWithAcc (a : Byte) : Result → Result
  | .next t => .next (withAcc a t)
  | .fault r => .fault r
  | .refused r => .refused r

section WithAcc

variable (a : Byte) (s : State)

theorem respond_withAcc (r : Response) : respond r (withAcc a s) = withAcc a (respond r s) := rfl

theorem respondWithWords_withAcc (n : Nat) (answer : Vector Word n → Response) :
    respondWithWords n answer (withAcc a s) = outcomeWithAcc a (respondWithWords n answer s) := by
  have hwords : committedWords n (withAcc a s) = committedWords n s := committedWords_congr n rfl
  rw [respondWithWords, respondWithWords, hwords]
  cases committedWords n s <;> rfl

theorem decodeRecord_withAcc (gate : Bool) (n : Nat) (answer : Vector Word n → Response) :
    decodeRecord gate n answer (withAcc a s) = outcomeWithAcc a (decodeRecord gate n answer s) := by
  simp only [decodeRecord, apply_ite (outcomeWithAcc a), respondWithWords_withAcc]
  rfl

theorem exec_valBuf_withAcc (bytes : List Byte) :
    exec (.valBuf bytes) (withAcc a s) = outcomeWithAcc a (exec (.valBuf bytes) s) := by
  by_cases hlen : validLength bytes.length
  · simp only [exec_valBuf_of_validLength hlen, apply_ite (outcomeWithAcc a)]
    rfl
  · simp only [exec_valBuf_of_not_validLength hlen]
    rfl

theorem exec_wbufRd_withAcc : exec .wbufRd (withAcc a s) = outcomeWithAcc a (exec .wbufRd s) := by
  cases hvalid : s.wvalid with
  | false => rw [exec_wbufRd_of_noCommit hvalid, exec_wbufRd_of_noCommit (s := withAcc a s) hvalid]; rfl
  | true =>
    rw [exec_wbufRd_of_commit hvalid, exec_wbufRd_of_commit (s := withAcc a s) hvalid]
    exact respondWithWords_withAcc a s _ _

/-- Outside the accumulator unit, `ACC` only passes through. -/
theorem exec_withAcc {i : Instr} (hi : writesAcc i = false) :
    exec i (withAcc a s) = outcomeWithAcc a (exec i s) := by
  cases i with
  | crcInit | crcFeed bytes | crcBuf bytes => exact absurd hi (by simp [writesAcc])
  | frmEnc bytes =>
    simp only [exec, execFrmEnc, apply_ite (outcomeWithAcc a)]
    rfl
  | frmChk hi lo c =>
    simp only [exec, execFrmChk, apply_ite (outcomeWithAcc a)]
    rfl
  | valBuf bytes => exact exec_valBuf_withAcc a s bytes
  | wbufRd => exact exec_wbufRd_withAcc a s
  | cvtMc raw | cvtNc raw | cvtTps raw | cvtRh raw | cvtT raw | cvtVoc raw | cvtNox raw | cvtRvoc raw | cvtRnox raw
  | cvtRrh raw | cvtRt raw => rfl
  | decMv50 | decMv54 | decMv55 | decRaw => exact decodeRecord_withAcc a s _ _ _
  | decPm | decRdy | decSts | decStr | decCmp => exact decodeRecord_withAcc a s true _ _
  | cmpEnc x0 x1 x2 =>
    simp only [exec, execCmpEnc, compEncode, outcomeWithAcc, apply_ite (withAcc a)]
    rfl
  | cfgSen50 | cfgSen54 | cfgSen55 | cfgRdv => rfl

end WithAcc

/-- Settles O50: `ACC` passes through every operation outside the unit, and CRC.INIT and CRC.BUF overwrite it. -/
theorem accIsPrivateToTheAccumulatorUnit : Obligations.AccIsPrivateToTheAccumulatorUnit := by
  refine ⟨fun i s t a hi hnext => ⟨?_, ?_⟩, fun _ _ => rfl, fun _ _ _ => rfl⟩
  · obtain ⟨hacc, -⟩ := registerWritersFollowTheAccessTable i s t hnext
    exact hacc.resolve_right hi
  · have hwrites : writesAcc i = false := by simpa [usesAcc_iff] using hi
    exact (exec_withAcc a s hwrites).trans (congrArg (outcomeWithAcc a) hnext)

end Sys2Proof.Machine

/-! Proofs about groups of operations: the codes each may end with (`60_exceptions.md` R242), the readers that repeat
(`20_memory.md` R57, `43_decode.md` R181 item 2), and what is left to decode after a failed validation (R181 item 3). -/

namespace Sys2Proof.Machine

open Claims

/-! ## Status codes -/

/-- The codes of the prelude; UNSUPPORTED_VARIANT needs a gate that is closed. -/
theorem decodeRecord_status {gate : Bool} {n : Nat} {answer : Vector Word n → Response} {s t : State}
    (hok : ∀ w, (answer w).status = .ok) (h : decodeRecord gate n answer s = .next t) :
    (gate = false ∧ t.status = 3) ∨ t.status ∈ [(0 : BitVec 3), 2, 4] := by
  rcases decodeRecord_cases h with ⟨hgate, rfl⟩ | ⟨-, -, rfl⟩ | ⟨-, -, -, rfl⟩ | ⟨-, -, -, w, -, rfl⟩
  · exact .inl ⟨hgate, rfl⟩
  · exact .inr (by simp [Status.code])
  · exact .inr (by simp [Status.code])
  · exact .inr (by simp [hok, Status.code])

theorem decodeRecord_status_of_gate {gate : Bool} {n : Nat} {answer : Vector Word n → Response} {s t : State}
    (hok : ∀ w, (answer w).status = .ok) (h : decodeRecord gate n answer s = .next t) :
    t.status ∈ [(0 : BitVec 3), 2, 3, 4] := by
  rcases decodeRecord_status hok h with ⟨-, hstatus⟩ | hstatus
  · simp [hstatus]
  · simp only [List.mem_cons, List.not_mem_nil, or_false] at hstatus ⊢
    tauto

theorem decodeRecord_status_of_any {n : Nat} {answer : Vector Word n → Response} {s t : State}
    (hok : ∀ w, (answer w).status = .ok) (h : decodeRecord true n answer s = .next t) :
    t.status ∈ [(0 : BitVec 3), 2, 4] :=
  (decodeRecord_status hok h).resolve_left (by simp)

theorem valBuf_status {bytes : List Byte} {s t : State} (h : exec (.valBuf bytes) s = .next t) :
    t.status ∈ [(0 : BitVec 3), 1, 2] := by
  by_cases hlen : validLength bytes.length
  · rw [exec_valBuf_of_validLength hlen] at h
    split at h <;> cases h <;> simp [Status.code]
  · rw [exec_valBuf_of_not_validLength hlen] at h
    cases h
    simp [Status.code]

theorem wbufRd_status {s t : State} (h : exec .wbufRd s = .next t) : t.status ∈ [(0 : BitVec 3), 4] := by
  cases hvalid : s.wvalid with
  | false =>
    rw [exec_wbufRd_of_noCommit hvalid] at h
    cases h
    simp [Status.code]
  | true =>
    rw [exec_wbufRd_of_commit hvalid] at h
    obtain ⟨w, -, rfl⟩ := (respondWithWords_eq_next_iff _ _ _ _).mp h
    simp [Status.code]

theorem cmpEnc_status {x0 x1 x2 : Bits32} {s t : State} (h : exec (.cmpEnc x0 x1 x2) s = .next t) :
    t.status ∈ [(0 : BitVec 3), 2] := by
  by_cases hfinite : finite x0 ∧ finite x1 ∧ finite x2
  · by_cases hrange : compInRange (compIntegers Config.params x0 x1 x2) = true
    · rw [exec_cmpEnc_of_inRange hfinite rfl hrange] at h
      cases h
      simp [Status.code]
    · rw [exec_cmpEnc_of_not_inRange hfinite rfl hrange] at h
      cases h
      simp [Status.code]
  · rw [exec_cmpEnc_of_not_finite hfinite] at h
    cases h
    simp [Status.code]

/-- Settles O55: the table, operation by operation; the decoders without a gate cannot raise UNSUPPORTED_VARIANT. -/
theorem statusCodesFollowTheRaiseTable : Obligations.StatusCodesFollowTheRaiseTable := by
  intro i s t hnext
  cases i with
  | crcInit | crcFeed bytes | crcBuf bytes =>
    cases hnext
    simp [mayEndWith]
  | frmEnc bytes =>
    by_cases hlen : payloadLength bytes.length
    · rw [exec_frmEnc_of_payloadLength hlen] at hnext
      cases hnext
      simp [mayEndWith, Status.code]
    · rw [exec_frmEnc_of_not_payloadLength hlen] at hnext
      cases hnext
      simp [mayEndWith, Status.code]
  | frmChk hi lo c =>
    by_cases hmatch : check hi lo = c
    · rw [exec_frmChk_of_match hmatch] at hnext
      cases hnext
      simp [mayEndWith, Status.code]
    · rw [exec_frmChk_of_mismatch hmatch] at hnext
      cases hnext
      simp [mayEndWith, Status.code]
  | valBuf bytes => exact valBuf_status hnext
  | wbufRd => exact wbufRd_status hnext
  | cvtMc raw | cvtNc raw | cvtTps raw | cvtRh raw | cvtT raw | cvtVoc raw | cvtNox raw | cvtRvoc raw | cvtRnox raw
  | cvtRrh raw | cvtRt raw =>
    cases hnext
    simp [mayEndWith, convert, Status.code]
  | decMv50 | decMv54 | decMv55 | decRaw => exact decodeRecord_status_of_gate (fun _ => rfl) hnext
  | decPm => exact decodeRecord_status_of_any (answer := pmRecord Config.params) (fun _ => rfl) hnext
  | decRdy => exact decodeRecord_status_of_any (answer := rdyRecord) (fun _ => rfl) hnext
  | decSts => exact decodeRecord_status_of_any (answer := stsRecord) (fun _ => rfl) hnext
  | decStr => exact decodeRecord_status_of_any (answer := strRecord) (fun _ => rfl) hnext
  | decCmp => exact decodeRecord_status_of_any (answer := cmpRecord) (fun _ => rfl) hnext
  | cmpEnc x0 x1 x2 => exact cmpEnc_status hnext
  | cfgSen50 | cfgSen54 | cfgSen55 | cfgRdv =>
    cases hnext
    simp [mayEndWith, selectVariant, Status.code]

/-! ## Readers repeat -/

/-- No reader is among the writers of the access table (`10_state.md` R35). -/
theorem readsOnly_not_writer {i : Instr} (h : readsOnly i) :
    ¬ usesAcc i ∧ ¬ selects i ∧ ¬ ∃ bytes, i = .valBuf bytes := by
  rcases h with rfl | rfl | ⟨k, raw, rfl⟩ | ⟨d, hd, rfl⟩
  · simp [usesAcc, selects]
  · simp [usesAcc, selects]
  · cases k <;> simp [cvtOf, usesAcc, selects]
  · simp only [decoders, List.mem_cons, List.not_mem_nil, or_false] at hd
    rcases hd with rfl | rfl | rfl | rfl | rfl | rfl | rfl | rfl | rfl <;> simp [usesAcc, selects]

/-- Settles O56: a reader writes no register, and the outcome depends on the registers alone. -/
theorem readersAreRepeatable : Obligations.ReadersAreRepeatable := by
  intro i s t hreads hnext
  obtain ⟨hnotAcc, hnotVariant, hnotBuffer⟩ := readsOnly_not_writer hreads
  obtain ⟨hacc, hvariant, hbuffer, hinputs⟩ := registerWritersFollowTheAccessTable i s t hnext
  obtain ⟨hwvalid, hwcount, hwbuf⟩ := hbuffer.resolve_right hnotBuffer
  have hsame : sameRegisters s t :=
    ⟨(hacc.resolve_right hnotAcc).symm, (hvariant.resolve_right hnotVariant).symm, hwvalid.symm, hwcount.symm,
      hwbuf.symm, hinputs.symm⟩
  exact ⟨hsame, (exec_congr hsame i).symm.trans hnext⟩

/-! ## After a failed validation -/

theorem reportsNothing_raise (code : Status) (s : State) : reportsNothing (raise code s) :=
  ⟨rfl, rfl, rfl, rfl, rfl⟩

/-- Without a commit a decoder raises: by its gate first, else NO_DATA (`43_decode.md` R170). -/
theorem exec_decoder_of_noCommit {d : Instr × (Variant → Bool) × Nat} (hd : d ∈ decoders) {s : State}
    (hvalid : s.wvalid = false) :
    exec d.1 s = .next (raise (if d.2.1 s.variant then .noData else .unsupportedVariant) s) := by
  obtain ⟨answer, -, hexec⟩ := exec_decoder hd
  rw [hexec]
  cases hgate : d.2.1 s.variant with
  | false => exact decodeRecord_of_closedGate rfl
  | true => exact decodeRecord_of_noCommit rfl hvalid

/-- Settles O57: VAL.BUF's errors are raised over an invalidated buffer, so every reader finds no commit. -/
theorem failedValidationLeavesNothingToDecode : Obligations.FailedValidationLeavesNothingToDecode := by
  intro s t bytes hnext herror
  obtain ⟨code, rfl⟩ := raisesOnly_valBuf bytes s t hnext herror
  have hvalid : (raise code (invalidate s)).wvalid = false := rfl
  refine ⟨fun d hd => ⟨_, exec_decoder_of_noCommit hd hvalid, reportsNothing_raise _ _, ?_⟩,
    _, exec_wbufRd_of_noCommit hvalid, rfl, reportsNothing_raise _ _⟩
  rw [raise_status, apply_ite Status.code]
  rfl

end Sys2Proof.Machine

/-! Proofs about the CRC function of `40_crc.md` and the operations that use it: the step as a polynomial remainder (R100),
split feeding (R104), what a check byte catches (R108) and the step table (R109).

The step is linear, and a shift loses nothing (`crcShift_eq_zero_iff`); so the step is zero only where its two bytes agree,
and what a flipped bit does to a check is the same for every chunk. -/

namespace Sys2Proof.Machine

open Claims

/-! ## The step as a polynomial remainder (R100) -/

section Remainder

open Polynomial

/-- The generator x^8 + x^5 + x^4 + 1 (R100). -/
noncomputable def generator : (ZMod 2)[X] := X ^ 8 + X ^ 5 + X ^ 4 + 1

/-- Exclusive OR adds coefficients modulo 2. -/
theorem poly_xor (a b : Byte) : poly (a ^^^ b) = poly a + poly b := by
  rw [poly, poly, poly, ← Finset.sum_add_distrib]
  refine Finset.sum_congr rfl fun k _ => ?_
  rw [BitVec.getLsbD_xor]
  cases a.getLsbD k <;> cases b.getLsbD k <;> simp [CharTwo.add_self_eq_zero]

/-- The byte 0x31 is the generator without its x^8 term. -/
theorem poly_0x31_add_pow : poly 0x31 + X ^ 8 = generator := by
  simp [poly, generator, Fin.sum_univ_eight]
  ring

/-- A left shift multiplies by x, but for the bit that falls out. -/
theorem poly_shiftLeft_one (c : Byte) : poly (c <<< 1) + (if c.getLsbD 7 then X ^ 8 else 0) = X * poly c := by
  simp [poly, Fin.sum_univ_eight, mul_add, ← pow_succ', ← sq]

theorem generator_dvd_crcShift (c : Byte) : generator ∣ poly (crcShift c) - X * poly c := by
  rw [← poly_shiftLeft_one, crcShift]
  cases c.getLsbD 7 with
  | false => simp
  | true =>
    have hfold : poly (c <<< 1 ^^^ 0x31) - (poly (c <<< 1) + X ^ 8) = generator := by
      rw [poly_xor, add_sub_add_left_eq_sub, CharTwo.sub_eq_add, poly_0x31_add_pow]
    simp only [if_true]
    exact dvd_of_eq hfold.symm

/-- Each shift multiplies by x modulo the generator. -/
theorem generator_dvd_crcShift_iterate (n : Nat) (c : Byte) :
    generator ∣ poly (crcShift^[n] c) - X ^ n * poly c := by
  induction n with
  | zero => simp
  | succ n ih =>
    have hsplit : poly (crcShift^[n + 1] c) - X ^ (n + 1) * poly c =
        poly (crcShift (crcShift^[n] c)) - X * poly (crcShift^[n] c) + X * (poly (crcShift^[n] c) - X ^ n * poly c) := by
      rw [Function.iterate_succ_apply']
      ring
    rw [hsplit]
    exact dvd_add (generator_dvd_crcShift _) (ih.mul_left X)

/-- Settles O16: the step is eight shifts of the exclusive OR. -/
theorem crcStepIsPolynomialRemainder : Obligations.CrcStepIsPolynomialRemainder :=
  fun acc b => generator_dvd_crcShift_iterate 8 (acc ^^^ b)

end Remainder

/-! ## Split feeding (R104) -/

/-- Settles O17: the second feed starts from the value the first left, and replaces every latch the first wrote. -/
theorem crcFeedSplits : Obligations.CrcFeedSplits := by
  intro s l m
  refine ⟨_, _, exec_crcFeed l s, exec_crcFeed m _, ?_⟩
  rw [exec_crcFeed, crcFeed_append]
  rfl

/-! ## What a check byte catches (R108) -/

/-- A shift loses nothing: where bit 7 falls out, the polynomial's bit 0 comes in. -/
theorem crcShift_eq_zero_iff (c : Byte) : crcShift c = 0 ↔ c = 0 := by
  refine ⟨fun h => ?_, fun h => by rw [h]; decide⟩
  have hbit (k : Nat) : (crcShift c).getLsbD k = false := by simp [h]
  cases htop : c.getLsbD 7 with
  | true =>
    have hlow := hbit 0
    simp [crcShift, htop] at hlow
  | false =>
    refine BitVec.eq_of_getLsbD_eq fun k hk => ?_
    rcases Nat.lt_or_ge k 7 with hk7 | hk7
    · have hnext := hbit (k + 1)
      simp only [crcShift, htop] at hnext
      simpa [show k + 1 < 8 by omega, BitVec.getLsbD_eq_getElem hk] using hnext
    · rw [show k = 7 by omega, htop]
      rfl

theorem crcShift_iterate_eq_zero_iff (n : Nat) (c : Byte) : crcShift^[n] c = 0 ↔ c = 0 := by
  induction n with
  | zero => rfl
  | succ n ih => rw [Function.iterate_succ_apply', crcShift_eq_zero_iff, ih]

/-- Only a byte equal to the running value clears it: `crcStep_self` with its converse. -/
theorem crcStep_eq_zero_iff (acc b : Byte) : crcStep acc b = 0 ↔ b = acc := by
  rw [crcStep_eq, crcShift_iterate_eq_zero_iff]
  exact BitVec.xor_eq_zero_iff.trans eq_comm

/-- Settles O18: the last byte is stepped into the buffer's CRC. -/
theorem onlyTheCheckByteClosesTheCrc : Obligations.OnlyTheCheckByteClosesTheCrc := by
  intro s l
  refine ⟨_, crc8 l, exec_crcBuf l s, rfl, fun d => ⟨_, exec_crcBuf (l ++ [d]) s, ?_⟩⟩
  rw [loadAcc_acc, crc8, crcFeed_append]
  exact crcStep_eq_zero_iff (crc8 l) d

/-- The bytes of a chunk, as 24 bits in wire order. -/
theorem extractLsb'_chunk (hi lo c : Byte) :
    (hi ++ lo ++ c).extractLsb' 16 8 = hi ∧ (hi ++ lo ++ c).extractLsb' 8 8 = lo ∧
      (hi ++ lo ++ c).extractLsb' 0 8 = c := by
  refine ⟨?_, ?_, ?_⟩ <;>
  · ext j
    simp
    grind

/-- What errors in a word's bytes do to its check byte: the seed cancels. -/
theorem check_xor (hi lo dhi dlo : Byte) :
    check (hi ^^^ dhi) (lo ^^^ dlo) = check hi lo ^^^ crcStep (crcStep 0 dhi) dlo := by
  rw [check, check, ← crcStep_xor, ← crcStep_xor]
  rfl

/-- No single bit of a chunk is the error its own check byte would have. -/
theorem check_singleBit_ne (bit : Fin 24) :
    crcStep (crcStep 0 (((1 : BitVec 24) <<< bit.val).extractLsb' 16 8)) (((1 : BitVec 24) <<< bit.val).extractLsb' 8 8) ≠
      ((1 : BitVec 24) <<< bit.val).extractLsb' 0 8 := by
  revert bit
  decide +kernel

/-- Settles O20: the check byte of the received word and the received check byte differ from the sent ones by unlike
errors. -/
theorem singleBitErrorFailsItsCheck : Obligations.SingleBitErrorFailsItsCheck := by
  intro s hi lo bit sent got
  obtain ⟨hhi, hlo, hcheck⟩ := extractLsb'_chunk hi lo (check hi lo)
  have hmismatch : check (got.extractLsb' 16 8) (got.extractLsb' 8 8) ≠ got.extractLsb' 0 8 := by
    simp only [got, sent, BitVec.extractLsb'_xor]
    rw [hhi, hlo, hcheck, check_xor, Ne, BitVec.xor_right_inj]
    exact check_singleBit_ne bit
  exact ⟨_, exec_frmChk_of_mismatch hmismatch s, rfl, rfl, rfl⟩

/-! ## The step table (R109) -/

/-- The transcribed table holds the eight shifts of every byte value in turn. -/
theorem crcTable_eq : crcTable = (List.range 256).map fun n => crcShift^[8] (BitVec.ofNat 8 n) := by
  decide +kernel

theorem crcTableStep_eq (acc b : Byte) : crcTableStep acc b = some (crcStep acc b) := by
  have hlt : (acc ^^^ b).toNat < 256 := (acc ^^^ b).isLt
  rw [crcTableStep, crcTable_eq, List.getElem?_map, List.getElem?_range hlt, Option.map_some, BitVec.ofNat_toNat,
    BitVec.setWidth_eq, crcStep_eq]

/-- Settles O19: every table step is the bitwise step, so none is missing along a buffer. -/
theorem tableDrivenCrcIsEquivalent : Obligations.TableDrivenCrcIsEquivalent := by
  intro acc bytes
  have hstep : crcTableStep = fun acc b => pure (crcStep acc b) := funext₂ crcTableStep_eq
  rw [hstep]
  exact List.foldlM_pure

end Sys2Proof.Machine

/-! Proofs about the validator of `41_validator.md` against the frame operations of `40_crc.md`: VAL.BUF agrees with FRM.CHK on
every chunk (R122), and what FRM.ENC frames is committed and read back (R101, R102, R120, R121). -/

namespace Sys2Proof.Machine

open Claims

/-! ## One chunk -/

theorem exec_frmChk_ok_iff (s : State) (hi lo c : Byte) :
    (∃ u, exec (.frmChk hi lo c) s = .next u ∧ u.status = 0) ↔ check hi lo = c := by
  refine ⟨?_, fun hmatch => ⟨_, exec_frmChk_of_match hmatch s, rfl⟩⟩
  rintro ⟨u, hu, hstatus⟩
  by_contra hmismatch
  rw [exec_frmChk_of_mismatch hmismatch] at hu
  cases hu
  exact absurd hstatus (by simp [Status.code])

theorem exec_frmChk_mismatch_iff (s : State) (hi lo c : Byte) :
    (∃ u, exec (.frmChk hi lo c) s = .next u ∧ u.status = 1) ↔ check hi lo ≠ c := by
  refine ⟨?_, fun hmismatch => ⟨_, exec_frmChk_of_mismatch hmismatch s, rfl⟩⟩
  rintro ⟨u, hu, hstatus⟩ hmatch
  rw [exec_frmChk_of_match hmatch] at hu
  cases hu
  exact absurd hstatus (by simp [Status.code])

/-! ## The words committed -/

theorem chunkWords_length_le {bytes : List Byte} (hlen : validLength bytes.length) :
    ((chunksOf bytes).map chunkWord).length ≤ 16 := by
  rw [List.length_map, chunksOf_length]
  omega

theorem commit_wbuf_getElem? {words : List Word} {j : Nat} {w : Word} (hle : words.length ≤ 16)
    (hw : words[j]? = some w) (s : State) : (commit words s).wbuf[j]? = some (some w) := by
  rw [← wbufEntry_eq_some_iff, wbufEntry_commit words s hle, hw]

/-- Settles O24: both operations compare the same check byte, chunk by chunk. -/
theorem valBufAgreesWithFrmChk : Obligations.ValBufAgreesWithFrmChk := by
  intro s bytes hlen
  simp only [exec_frmChk_ok_iff, exec_frmChk_mismatch_iff]
  by_cases hgood : ∀ j hi lo c, chunkAt bytes j hi lo c → check hi lo = c
  · have hnoBad : ¬ ∃ j hi lo c, chunkAt bytes j hi lo c ∧ check hi lo ≠ c :=
      fun ⟨j, hi, lo, c, hat, hne⟩ => hne (hgood j hi lo c hat)
    refine ⟨_, exec_valBuf_of_goodChunks hlen hgood s, iff_of_true rfl hgood, iff_of_false (by simp [Status.code]) hnoBad,
      fun _ j hi lo c hat => ⟨_, cat16 hi lo, exec_frmChk_of_match (hgood j hi lo c hat) s, rfl, ?_⟩⟩
    exact commit_wbuf_getElem? (chunkWords_length_le hlen) (chunkWords_getElem? hat) (invalidate s)
  · have hbad : ∃ j hi lo c, chunkAt bytes j hi lo c ∧ check hi lo ≠ c := by
      push Not at hgood
      exact hgood
    exact ⟨_, exec_valBuf_of_badChunk hlen hbad s, iff_of_false (by simp [Status.code]) hgood, iff_of_true rfl hbad,
      fun hok => absurd hok (by simp [Status.code])⟩

/-! ## Framing and validating back -/

/-- FRM.ENC ends with OK only where the count is right, and then reports the words and their frames. -/
theorem eq_respond_of_frmEnc_ok {bytes : List Byte} {s t : State} (hnext : exec (.frmEnc bytes) s = .next t)
    (hok : t.status = 0) :
    payloadLength bytes.length ∧
      t = respond { status := .ok, rbyte := (wordsOf bytes).flatMap frame, rword := wordsOf bytes } s := by
  by_cases hlen : payloadLength bytes.length
  · rw [exec_frmEnc_of_payloadLength hlen] at hnext
    cases hnext
    exact ⟨hlen, rfl⟩
  · rw [exec_frmEnc_of_not_payloadLength hlen] at hnext
    cases hnext
    exact absurd hok (by simp [Status.code])

/-- The frames of 1 to 16 words are committed as those words: each chunk's check byte is the one the frame was given. -/
theorem exec_valBuf_flatMap_frame {words : List Word} (hpos : 1 ≤ words.length) (hle : words.length ≤ 16) (s : State) :
    exec (.valBuf (words.flatMap frame)) s =
      .next (respond { status := .ok, rword := words, rflag := true } (commit words (invalidate s))) := by
  have hlen : validLength (words.flatMap frame).length := by
    rw [flatMap_frame_length]
    refine ⟨?_, ?_, ?_⟩ <;> omega
  have hgood : (chunksOf (words.flatMap frame)).all chunkOk = true := by
    simp [chunksOf_flatMap_frame, chunkOk]
  have hwords : (chunksOf (words.flatMap frame)).map chunkWord = words := by
    simp [chunksOf_flatMap_frame, chunkWord, Function.comp_def]
  rw [exec_valBuf_of_validLength hlen, if_pos hgood, hwords]

/-- WBUF.RD reports exactly the words of a commit. -/
theorem exec_wbufRd_commit {words : List Word} (hle : words.length ≤ 16) (r : Response) (s : State) :
    exec .wbufRd (respond r (commit words s)) =
      .next (respond { status := .ok, rword := words } (respond r (commit words s))) := by
  have hcount : words.length = (respond r (commit words s)).wcount.toNat := by
    simp
    omega
  rw [exec_wbufRd_of_commit rfl, respondWithWords_eq_next_iff]
  exact ⟨_, committedWords_eq_some_of_list hcount fun j w hw => commit_wbuf_getElem? hle hw s, rfl⟩

/-- Settles O25: framing and validating use the one check byte, and the buffer holds the words committed. -/
theorem framedWordsValidateBack : Obligations.FramedWordsValidateBack := by
  intro s t bytes hnext hok
  obtain ⟨hlen, rfl⟩ := eq_respond_of_frmEnc_ok hnext hok
  have hwords : (wordsOf bytes).length = bytes.length / 2 := wordsOf_length bytes
  exact ⟨_, _, exec_valBuf_flatMap_frame (by omega) (by omega) _, rfl, rfl, rfl, exec_wbufRd_commit (by omega) _ _, rfl,
    rfl⟩

end Sys2Proof.Machine

/-! Proofs about the rounding to binary32 of `00_scope.md` R11: `rne32` gives the nearest finite value, ties to even.

Two integers describe a rounded magnitude: the quantum's exponent `u`, in units of 2^-149, and the significand `r`. In units of
the quantum the quotient is rounded to an integer; every finite value is an integer there too, or lies below the 24 significant
bits and so below the quotient (`OnGrid`). That the nearest integer is the nearest value is then `nearest_of_rounds`. -/

namespace Sys2Proof.Machine

open Claims

/-! ## Rounding to an integer, compared with other candidates -/

/-- The rounded integer is nearest among the integers and the numbers below an integer below `y`; where another one is as
near, it is even. -/
theorem nearest_of_rounds {y z : ℚ} {r : ℤ} (hr : rounds .halfEven y r)
    (hz : (∃ k : ℤ, z = k) ∨ ∃ b : ℤ, z < b ∧ (b : ℚ) ≤ y) :
    |y - r| ≤ |y - z| ∧ (|y - z| = |y - r| → z ≠ r → r % 2 = 0) := by
  have hhalf := abs_sub_le_of_rounds hr
  have hinteger (k : ℤ) (hne : k ≠ r) : 1 - |y - r| ≤ |y - k| := by
    have hone : (1 : ℚ) ≤ |(k : ℚ) - r| := by exact_mod_cast Int.one_le_abs (sub_ne_zero.mpr hne)
    have htriangle := abs_sub_abs_le_abs_sub ((k : ℚ) - r) (y - r)
    rw [sub_sub_sub_cancel_right, abs_sub_comm (k : ℚ) y] at htriangle
    linarith
  have hnearest (k : ℤ) : |y - r| ≤ |y - k| := by
    by_cases hk : k = r
    · rw [hk]
    · linarith [hinteger k hk]
  rcases hz with ⟨k, rfl⟩ | ⟨b, hzb, hby⟩
  · refine ⟨hnearest k, fun heq hne => ?_⟩
    have hge := hinteger k (by exact_mod_cast hne)
    rcases hr with hlt | ⟨-, heven⟩
    · linarith
    · exact heven
  · have hb := hnearest b
    rw [abs_of_nonneg (by linarith : 0 ≤ y - b)] at hb
    rw [abs_of_nonneg (by linarith : 0 ≤ y - z)]
    exact ⟨by linarith, fun heq => by linarith⟩

section RoundNat

variable {mode : Config.Rounding} {a d k : Nat}

theorem roundNat_le (hd : 0 < d) (h : a ≤ d * k) : roundNat mode a d ≤ k := by
  obtain ⟨-, hnear⟩ := roundNat_near mode a hd
  have hscaled : d * (2 * roundNat mode a d) ≤ d * (2 * k + 1) := by
    rw [Nat.mul_add, Nat.mul_left_comm, Nat.mul_left_comm d]
    omega
  have := Nat.le_of_mul_le_mul_left hscaled hd
  omega

theorem le_roundNat (hd : 0 < d) (h : d * k ≤ a) : k ≤ roundNat mode a d := by
  obtain ⟨hnear, -⟩ := roundNat_near mode a hd
  have hscaled : d * (2 * k) ≤ d * (2 * roundNat mode a d + 1) := by
    rw [Nat.mul_add, Nat.mul_left_comm, Nat.mul_left_comm d]
    omega
  have := Nat.le_of_mul_le_mul_left hscaled hd
  omega

end RoundNat

/-! ## The quantum and the significand -/

/-- The exponent of the quantum of `n / d` units: 24 significant bits, and no quantum below one unit. -/
def quantumExp (n d : Nat) : Nat := Nat.log2 (n / d) - 23

/-- The rounded number of quanta. -/
def significand (n d : Nat) : Nat := roundNat .halfEven n (d * 2 ^ quantumExp n d)

theorem quantumExp_le {n d e : Nat} (hn : n ≤ (2 ^ 24 - 1) * 2 ^ e * d) : quantumExp n d ≤ e := by
  by_cases h0 : n / d = 0
  · simp [quantumExp, h0]
  · have hquot : n / d < 2 ^ (24 + e) := by
      rw [pow_add]
      exact (Nat.div_le_of_le_mul (hn.trans_eq (Nat.mul_comm _ _))).trans_lt
        (Nat.mul_lt_mul_of_pos_right (by decide) (by positivity))
    have hlog := (Nat.log2_lt h0).mpr hquot
    rw [quantumExp]
    omega

section Significand

variable {n d : Nat} (hd : 0 < d)
include hd

theorem lt_mul_two_pow_quantumExp : n < d * 2 ^ quantumExp n d * 2 ^ 24 := by
  have hlog : n / d < 2 ^ (quantumExp n d + 24) :=
    Nat.lt_log2_self.trans_le (Nat.pow_le_pow_right two_pos (by rw [quantumExp]; omega))
  rw [Nat.mul_assoc, ← pow_add, Nat.mul_comm]
  exact (Nat.div_lt_iff_lt_mul hd).mp hlog

/-- A quantum of more than one unit is there because the quotient fills the 24 bits. -/
theorem mul_two_pow_quantumExp_le (hu : quantumExp n d ≠ 0) : d * 2 ^ quantumExp n d * 2 ^ 23 ≤ n := by
  have hexp : quantumExp n d + 23 = Nat.log2 (n / d) := by
    rw [quantumExp] at hu ⊢
    omega
  have hne : n / d ≠ 0 := by
    intro h0
    simp [quantumExp, h0] at hu
  have hlog : 2 ^ (quantumExp n d + 23) ≤ n / d := hexp ▸ Nat.log2_self_le hne
  rw [Nat.mul_assoc, ← pow_add, Nat.mul_comm]
  exact (Nat.le_div_iff_mul_le hd).mp hlog

theorem significand_le : significand n d ≤ 2 ^ 24 :=
  roundNat_le (by positivity) (lt_mul_two_pow_quantumExp hd).le

theorem le_significand : quantumExp n d = 0 ∨ 2 ^ 23 ≤ significand n d :=
  or_iff_not_imp_left.mpr fun hu => le_roundNat (by positivity) (mul_two_pow_quantumExp_le hd hu)

/-- Up to the largest finite value, the pattern number stays below infinity's. -/
theorem quantumExp_significand_lt (hn : n ≤ (2 ^ 24 - 1) * 2 ^ 253 * d) :
    quantumExp n d * 2 ^ 23 + significand n d < 0x7F800000 := by
  have hle := significand_le hd (n := n)
  rcases (quantumExp_le hn).lt_or_eq with hu | hu
  · omega
  · have htop : significand n d ≤ 2 ^ 24 - 1 := by
      rw [significand, hu]
      exact roundNat_le (by positivity) (hn.trans_eq (by ring))
    rw [hu]
    omega

theorem rneBits_eq (hn : n ≤ (2 ^ 24 - 1) * 2 ^ 253 * d) :
    rneBits n d = quantumExp n d * 2 ^ 23 + significand n d :=
  min_eq_left (quantumExp_significand_lt hd hn).le

end Significand
/-! ## The numbers with 24 significant bits -/

/-- The quantum of exponent `u`, as a number. -/
def quantum (u : Nat) : ℚ := 2 ^ u / 2 ^ 149

theorem quantum_pos (u : Nat) : 0 < quantum u := by
  unfold quantum
  positivity

/-- A number that is whole in every quantum, or lies below the 24 significant bits of a quantum of more than one unit. -/
def OnGrid (v : ℚ) : Prop :=
  ∀ u : Nat, (∃ k : ℤ, v = k * quantum u) ∨ (u ≠ 0 ∧ |v| < 2 ^ 23 * quantum u)

theorem onGrid_neg {v : ℚ} (h : OnGrid v) : OnGrid (-v) := by
  intro u
  rcases h u with ⟨k, rfl⟩ | hlt
  · exact .inl ⟨-k, by push_cast; ring⟩
  · exact .inr (by rwa [abs_neg])

theorem onGrid_of_significand {m e : Nat} (hm : m < 2 ^ 24) : OnGrid (m * quantum e) := by
  intro u
  rcases Nat.lt_or_ge e u with hu | hu
  · refine .inr ⟨by omega, ?_⟩
    rw [abs_of_nonneg (mul_nonneg m.cast_nonneg (quantum_pos e).le)]
    have hdouble : 2 * quantum e ≤ quantum u := by
      rw [quantum, quantum, ← mul_div_assoc, ← pow_succ']
      gcongr
      · norm_num
      · exact hu
    have hm' : (m : ℚ) < 2 ^ 24 := mod_cast hm
    calc (m : ℚ) * quantum e < 2 ^ 24 * quantum e := mul_lt_mul_of_pos_right hm' (quantum_pos e)
      _ = 2 ^ 23 * (2 * quantum e) := by ring
      _ ≤ 2 ^ 23 * quantum u := by gcongr
  · refine .inl ⟨m * 2 ^ (e - u), ?_⟩
    have hsplit : (2 : ℚ) ^ e = 2 ^ (e - u) * 2 ^ u := by rw [← pow_add, Nat.sub_add_cancel hu]
    rw [quantum, quantum, hsplit]
    push_cast
    ring

/-- Integers of up to 24 bits have a quantum of their own. -/
theorem onGrid_natCast {n : Nat} (hn : n < 2 ^ 24) : OnGrid n := by
  simpa [quantum] using onGrid_of_significand (e := 149) hn

/-- The value of a pattern, from its magnitude in units. -/
theorem value_eq_mag32 (p : Bits32) : value p = if signBit p then -(mag32 p * quantum 0) else mag32 p * quantum 0 := by
  rw [← toRat_val32, val32, Frac.toRat, quantum]
  split <;> push_cast <;> ring

/-- Every pattern's value is on the grid: a fraction of 23 bits, or one with its leading one. -/
theorem onGrid_value (p : Bits32) : OnGrid (value p) := by
  have hmag : OnGrid (mag32 p * quantum 0) := by
    rw [mag32_eq]
    split
    · exact onGrid_of_significand (by omega)
    · next hexp =>
      have hm : 2 ^ 23 + p.toNat % 2 ^ 23 < 2 ^ 24 := by omega
      have := onGrid_of_significand (e := p.toNat / 2 ^ 23 % 256 - 1) hm
      convert this using 1
      rw [quantum, quantum]
      push_cast
      ring
  rw [value_eq_mag32]
  split
  · exact onGrid_neg hmag
  · exact hmag

/-! ## `rne32` of a magnitude -/

section Magnitude

variable {a d : Nat}

theorem rne32_natCast (a d : Nat) : rne32 ⟨a, d⟩ = BitVec.ofNat 32 (rneBits (a * 2 ^ 149) d) := by
  simp [rne32]

/-- The quotient, in quanta. -/
theorem div_eq_mul_quantum (a : Nat) (hd : 0 < d) (u : Nat) :
    (a : ℚ) / d = ((a * 2 ^ 149 : ℕ) : ℚ) / ((d * 2 ^ u : ℕ) : ℚ) * quantum u := by
  rw [quantum]
  push_cast
  field_simp
  ring

theorem units_le (ha : a ≤ (2 ^ 24 - 1) * 2 ^ 104 * d) : a * 2 ^ 149 ≤ (2 ^ 24 - 1) * 2 ^ 253 * d :=
  calc a * 2 ^ 149 ≤ (2 ^ 24 - 1) * 2 ^ 104 * d * 2 ^ 149 := Nat.mul_le_mul_right _ ha
    _ = (2 ^ 24 - 1) * 2 ^ 253 * d := by ring

variable (hd : 0 < d) (ha : a ≤ (2 ^ 24 - 1) * 2 ^ 104 * d)
include hd ha

theorem toNat_rne32_natCast :
    (rne32 ⟨a, d⟩).toNat = quantumExp (a * 2 ^ 149) d * 2 ^ 23 + significand (a * 2 ^ 149) d := by
  have hlt := quantumExp_significand_lt hd (units_le ha)
  rw [rne32_natCast, rneBits_eq hd (units_le ha), BitVec.toNat_ofNat, Nat.mod_eq_of_lt (by omega)]

theorem toNat_rne32_natCast_lt : (rne32 ⟨a, d⟩).toNat < 0x7F800000 :=
  toNat_rne32_natCast hd ha ▸ quantumExp_significand_lt hd (units_le ha)

theorem signBit_rne32_natCast : signBit (rne32 ⟨a, d⟩) = false := by
  have hlt := toNat_rne32_natCast_lt hd ha
  exact Nat.testBit_lt_two_pow (by omega)

theorem value_rne32_natCast :
    value (rne32 ⟨a, d⟩) = significand (a * 2 ^ 149) d * quantum (quantumExp (a * 2 ^ 149) d) := by
  have hlt := quantumExp_significand_lt hd (units_le ha)
  rw [value_eq_mag32, signBit_rne32_natCast hd ha, rne32_natCast, rneBits_eq hd (units_le ha),
    mag32_significand (significand_le hd) (le_significand hd) hlt, quantum, quantum]
  push_cast
  ring_nf

theorem finite_rne32_natCast : finite (rne32 ⟨a, d⟩) := by
  have hlt := toNat_rne32_natCast_lt hd ha
  rw [finite]
  omega

/-- In its own quantum the quotient is rounded to the significand. -/
theorem exists_rounds_of_rne32_natCast : ∃ (u : Nat) (y : ℚ) (r : ℤ),
    (a : ℚ) / d = y * quantum u ∧ value (rne32 ⟨a, d⟩) = r * quantum u ∧ rounds .halfEven y r ∧
      (u ≠ 0 → 2 ^ 23 ≤ y) ∧ ((rne32 ⟨a, d⟩).getLsbD 0 = true → r % 2 = 1) := by
  refine ⟨quantumExp (a * 2 ^ 149) d, _, significand (a * 2 ^ 149) d, div_eq_mul_quantum a hd _, ?_,
    rounds_roundNat .halfEven (a * 2 ^ 149) (d := d * 2 ^ quantumExp (a * 2 ^ 149) d) (by positivity), fun hu => ?_,
    fun hbit => ?_⟩
  · exact_mod_cast value_rne32_natCast hd ha
  · rw [le_div_iff₀ (by positivity), mul_comm]
    exact_mod_cast mul_two_pow_quantumExp_le hd hu
  · have hodd : (rne32 ⟨a, d⟩).toNat % 2 = 1 := by simpa [BitVec.getLsbD, Nat.testBit_zero] using hbit
    rw [toNat_rne32_natCast hd ha] at hodd
    omega

/-- No number on the grid is nearer, and where another one is as near, the last bit is 0. -/
theorem rne32_natCast_nearest {v : ℚ} (hv : OnGrid v) :
    |value (rne32 ⟨a, d⟩) - (a : ℚ) / d| ≤ |v - (a : ℚ) / d| ∧
      (v ≠ value (rne32 ⟨a, d⟩) → |v - (a : ℚ) / d| = |value (rne32 ⟨a, d⟩) - (a : ℚ) / d| →
        (rne32 ⟨a, d⟩).getLsbD 0 = false) := by
  obtain ⟨u, y, r, hq, hp, hrounds, hfull, hodd⟩ := exists_rounds_of_rne32_natCast hd ha
  have hc := quantum_pos u
  obtain ⟨z, rfl⟩ : ∃ z, v = z * quantum u := ⟨v / quantum u, (div_mul_cancel₀ v hc.ne').symm⟩
  have hz : (∃ k : ℤ, z = k) ∨ ∃ b : ℤ, z < b ∧ (b : ℚ) ≤ y := by
    rcases hv u with ⟨k, hk⟩ | ⟨hu, hlt⟩
    · exact .inl ⟨k, mul_right_cancel₀ hc.ne' hk⟩
    · refine .inr ⟨2 ^ 23, ?_, by exact_mod_cast hfull hu⟩
      exact_mod_cast lt_of_mul_lt_mul_right ((le_abs_self _).trans_lt hlt) hc.le
  have hdist (x : ℚ) : |x * quantum u - y * quantum u| = |y - x| * quantum u := by
    rw [← sub_mul, abs_mul, abs_of_pos hc, abs_sub_comm]
  obtain ⟨hnearest, htie⟩ := nearest_of_rounds hrounds hz
  rw [hq, hp, hdist, hdist]
  refine ⟨mul_le_mul_of_nonneg_right hnearest hc.le, fun hne heq => ?_⟩
  have heven := htie (mul_right_cancel₀ hc.ne' heq) fun h => hne (by rw [h])
  refine Bool.eq_false_iff.mpr fun hbit => ?_
  have := hodd hbit
  omega

/-- The rounding error is at most half a quantum: 2^-24 of the quotient, or 2^-150. -/
theorem abs_value_rne32_natCast_sub_le :
    |value (rne32 ⟨a, d⟩) - (a : ℚ) / d| ≤ (a : ℚ) / d / 2 ^ 24 + 1 / 2 ^ 150 := by
  obtain ⟨u, y, r, hq, hp, hrounds, hfull, -⟩ := exists_rounds_of_rne32_natCast hd ha
  have hc := quantum_pos u
  have hhalf : |y - r| * quantum u ≤ 1 / 2 * quantum u :=
    mul_le_mul_of_nonneg_right (abs_sub_le_of_rounds hrounds) hc.le
  have hq0 : 0 ≤ y * quantum u := hq ▸ by positivity
  rw [hq, hp, ← sub_mul, abs_mul, abs_of_pos hc, abs_sub_comm]
  by_cases hu : u = 0
  · have hunit : 1 / 2 * quantum u = 1 / 2 ^ 150 := by
      rw [hu, quantum]
      norm_num
    linarith [div_nonneg hq0 (by norm_num : (0 : ℚ) ≤ 2 ^ 24)]
  · have hquanta : 2 ^ 23 * quantum u ≤ y * quantum u := mul_le_mul_of_nonneg_right (hfull hu) hc.le
    have htiny : (0 : ℚ) < 1 / 2 ^ 150 := by positivity
    linarith

end Magnitude

/-! ## `rne32` on both sides of zero -/

/-- The pattern with its sign bit set. -/
def setSign (p : Bits32) : Bits32 := p ||| 0x80000000

section SetSign

variable (p : Bits32)

theorem expField_setSign : expField (setSign p) = expField p := by
  simp [expField, setSign, BitVec.extractLsb'_or]

theorem fracField_setSign : fracField (setSign p) = fracField p := by
  simp [fracField, setSign, BitVec.extractLsb'_or]

theorem getLsbD_zero_setSign : (setSign p).getLsbD 0 = p.getLsbD 0 := by
  simp [setSign]

theorem signBit_setSign : signBit (setSign p) = true := by
  simp [signBit, setSign]

theorem finite_setSign : finite (setSign p) ↔ finite p := by
  rw [finite, finite, ← expField_toNat, ← expField_toNat, expField_setSign]

theorem value_setSign (h : signBit p = false) : value (setSign p) = -value p := by
  have hmag : mag32 (setSign p) = mag32 p := by
    rw [mag32, mag32, expField_setSign, fracField_setSign]
  rw [value_eq_mag32, value_eq_mag32, signBit_setSign, h, hmag]
  simp

end SetSign

/-- The sign is put on the rounded magnitude. -/
theorem rne32_neg_natCast {a : Nat} (hpos : 0 < a) (d : Nat) : rne32 ⟨-a, d⟩ = setSign (rne32 ⟨a, d⟩) := by
  have hneg : -(a : ℤ) < 0 := by omega
  have hnonneg : ¬ (a : ℤ) < 0 := by omega
  simp only [rne32, setSign, if_pos hneg, if_neg hnonneg, Int.natAbs_neg]

theorem exists_natCast_of_natAbs_le {n : ℤ} {b : Nat} (hn : n.natAbs ≤ b) :
    (∃ a : Nat, a ≤ b ∧ n = a) ∨ ∃ a : Nat, 0 < a ∧ a ≤ b ∧ n = -a := by
  rcases lt_or_ge n 0 with hneg | hnonneg
  · exact .inr ⟨n.natAbs, by omega, hn, by omega⟩
  · exact .inl ⟨n.natAbs, hn, by omega⟩

section Signed

variable {n : ℤ} {d : Nat} (hd : 0 < d) (hn : n.natAbs ≤ (2 ^ 24 - 1) * 2 ^ 104 * d)
include hd hn

theorem finite_rne32 : finite (rne32 ⟨n, d⟩) := by
  rcases exists_natCast_of_natAbs_le hn with ⟨a, ha, rfl⟩ | ⟨a, hpos, ha, rfl⟩
  · exact finite_rne32_natCast hd ha
  · rw [rne32_neg_natCast hpos, finite_setSign]
    exact finite_rne32_natCast hd ha

theorem signBit_rne32 : signBit (rne32 ⟨n, d⟩) = true ↔ n < 0 := by
  rcases exists_natCast_of_natAbs_le hn with ⟨a, ha, rfl⟩ | ⟨a, hpos, ha, rfl⟩
  · rw [signBit_rne32_natCast hd ha]
    exact iff_of_false (by simp) (by omega)
  · rw [rne32_neg_natCast hpos, signBit_setSign]
    exact iff_of_true rfl (by omega)

/-- No number on the grid is nearer, and where another one is as near, the last bit is 0. -/
theorem rne32_nearest {v : ℚ} (hv : OnGrid v) :
    |value (rne32 ⟨n, d⟩) - (n : ℚ) / d| ≤ |v - (n : ℚ) / d| ∧
      (v ≠ value (rne32 ⟨n, d⟩) → |v - (n : ℚ) / d| = |value (rne32 ⟨n, d⟩) - (n : ℚ) / d| →
        (rne32 ⟨n, d⟩).getLsbD 0 = false) := by
  rcases exists_natCast_of_natAbs_le hn with ⟨a, ha, rfl⟩ | ⟨a, hpos, ha, rfl⟩
  · exact rne32_natCast_nearest hd ha hv
  · have hmirror (x y : ℚ) : |x - -y| = |-x - y| := by
      rw [← abs_neg]
      congr 1
      ring
    obtain ⟨hnearest, htie⟩ := rne32_natCast_nearest hd ha (onGrid_neg hv)
    rw [rne32_neg_natCast hpos, value_setSign _ (signBit_rne32_natCast hd ha), getLsbD_zero_setSign, Int.cast_neg,
      Int.cast_natCast, neg_div, hmirror, hmirror, neg_neg]
    exact ⟨hnearest, fun hne heq => htie (fun h => hne (by rw [← h, neg_neg])) heq⟩

/-- The rounding error is at most 2^-24 of the quotient, or 2^-150. -/
theorem abs_value_rne32_sub_le :
    |value (rne32 ⟨n, d⟩) - (n : ℚ) / d| ≤ |(n : ℚ) / d| / 2 ^ 24 + 1 / 2 ^ 150 := by
  rcases exists_natCast_of_natAbs_le hn with ⟨a, ha, rfl⟩ | ⟨a, hpos, ha, rfl⟩
  · have herror := abs_value_rne32_natCast_sub_le hd ha
    rwa [Int.cast_natCast, abs_of_nonneg (by positivity : (0 : ℚ) ≤ (a : ℚ) / d)]
  · have herror := abs_value_rne32_natCast_sub_le hd ha
    rw [rne32_neg_natCast hpos, value_setSign _ (signBit_rne32_natCast hd ha), Int.cast_neg, Int.cast_natCast,
      neg_div, abs_neg, ← neg_sub', abs_neg]
    rwa [abs_of_nonneg (by positivity : (0 : ℚ) ≤ (a : ℚ) / d)]

/-- A quotient on the grid is its own rounding. -/
theorem value_rne32_of_onGrid (hgrid : OnGrid ((n : ℚ) / d)) : value (rne32 ⟨n, d⟩) = (n : ℚ) / d := by
  obtain ⟨hnearest, -⟩ := rne32_nearest hd hn hgrid
  rw [sub_self, abs_zero] at hnearest
  exact sub_eq_zero.mp (abs_nonpos_iff.mp hnearest)

/-- A number on the grid that bounds the quotient from above bounds its rounding. -/
theorem abs_value_rne32_le {b : ℚ} (hb : OnGrid b) (h : |(n : ℚ) / d| ≤ b) : |value (rne32 ⟨n, d⟩)| ≤ b := by
  obtain ⟨habove, -⟩ := rne32_nearest hd hn hb
  obtain ⟨hbelow, -⟩ := rne32_nearest hd hn (onGrid_neg hb)
  obtain ⟨hlo, hhi⟩ := abs_le.mp h
  rw [abs_of_nonneg (by linarith : 0 ≤ b - (n : ℚ) / d)] at habove
  rw [abs_of_nonpos (by linarith : -b - (n : ℚ) / d ≤ 0)] at hbelow
  exact abs_le.mpr ⟨by linarith [(abs_le.mp hbelow).1], by linarith [(abs_le.mp habove).2]⟩

/-- A number on the grid that bounds the quotient from below bounds its rounding. -/
theorem le_abs_value_rne32 {b : ℚ} (hb : OnGrid b) (h : b ≤ |(n : ℚ) / d|) : b ≤ |value (rne32 ⟨n, d⟩)| := by
  obtain ⟨habove, -⟩ := rne32_nearest hd hn hb
  obtain ⟨hbelow, -⟩ := rne32_nearest hd hn (onGrid_neg hb)
  rcases le_abs'.mp h with hneg | hpos
  · rw [abs_of_nonneg (by linarith : 0 ≤ -b - (n : ℚ) / d)] at hbelow
    exact le_abs'.mpr (.inl (by linarith [(abs_le.mp hbelow).2]))
  · rw [abs_of_nonpos (by linarith : b - (n : ℚ) / d ≤ 0)] at habove
    exact le_abs'.mpr (.inr (by linarith [(abs_le.mp habove).1]))

end Signed

/-- Settles O29: every finite pattern's value is on the grid. -/
theorem rneThirtyTwoIsNearestTiesToEven : Obligations.RneThirtyTwoIsNearestTiesToEven := by
  refine ⟨fun d _ => rne32_zero d, fun n d hd hn => ⟨finite_rne32 hd hn, fun p' _ => ?_, fun p' _ => ?_⟩⟩
  · exact (rne32_nearest hd hn (onGrid_value p')).1
  · exact (rne32_nearest hd hn (onGrid_value p')).2

end Sys2Proof.Machine

/-! Proofs about what the conversions give: the range of the CVT results (`42_convert.md` R152) and the round trips of the
temperature compensation (`44_compensation.md` R204).

Every quotient here is far inside the range of `rne32`, so its bounds on the grid survive the rounding
(`abs_value_rne32_le`, `le_abs_value_rne32`), and its error is too small to move a register to the next integer. -/

namespace Sys2Proof.Machine

open Claims

/-! ## The quotients of the conversions (R140) -/

theorem scaling_divisor_pos (k : Kind) : 0 < (scaling k).divisor := by
  cases k <;> decide

/-- The integer a raw stands for. -/
def rawInt (k : Kind) (raw : Word) : ℤ := if (scaling k).signed then raw.toInt else raw.toNat

theorem quotient_eq (k : Kind) (raw : Word) : quotient k raw = ⟨rawInt k raw, (scaling k).divisor⟩ := rfl

section RawInt

variable {k : Kind} {raw : Word}

theorem rawInt_eq_zero_iff : rawInt k raw = 0 ↔ raw = 0 := by
  rw [rawInt]
  split
  · exact BitVec.toInt_inj (y := 0)
  · rw [Nat.cast_eq_zero]
    exact BitVec.toNat_inj (y := 0)

theorem rawInt_neg_iff : rawInt k raw < 0 ↔ (scaling k).signed = true ∧ raw.toInt < 0 := by
  rw [rawInt]
  split
  · next hsigned => simp [hsigned]
  · next hunsigned => simp [hunsigned]

/-- Off the sentinel an unsigned raw is at most 65534. -/
theorem natAbs_rawInt_le (h : raw ≠ (scaling k).sentinel) : (rawInt k raw).natAbs ≤ 65534 := by
  have hlt := raw.isLt
  have hsigned : raw.toInt.natAbs ≤ 65534 := by
    have h0 := BitVec.toInt_lt (x := raw)
    have h1 := BitVec.le_toInt (x := raw)
    omega
  have hunsigned (hne : raw ≠ 0xFFFF) : (raw.toNat : ℤ).natAbs ≤ 65534 := by
    have : raw.toNat ≠ 65535 := fun h => hne (BitVec.eq_of_toNat_eq h)
    omega
  cases k with
  | mc | nc | tps | rvoc | rnox => exact hunsigned h
  | rh | t | voc | nox | rrh | rt => exact hsigned

end RawInt

/-- A raw is far inside the range of `rne32`. -/
theorem natAbs_le_range {n : ℤ} {d : Nat} (hd : 0 < d) (hn : n.natAbs ≤ 65535) :
    n.natAbs ≤ (2 ^ 24 - 1) * 2 ^ 104 * d :=
  calc n.natAbs ≤ (2 ^ 24 - 1) * 2 ^ 104 * 1 := hn.trans (by norm_num)
    _ ≤ (2 ^ 24 - 1) * 2 ^ 104 * d := Nat.mul_le_mul_left _ hd

theorem abs_div_natCast (n : ℤ) (d : Nat) : |(n : ℚ) / d| = (n.natAbs : ℚ) / d := by
  rw [abs_div, Nat.abs_cast, Nat.cast_natAbs, Int.cast_abs]

/-! ## The range of a conversion (R152) -/

/-- The pattern of the smallest quotient, 1/1000; its value is just above. -/
theorem rne32_thousandth :
    rne32 ⟨1, 1000⟩ = 0x3A83126F ∧ 1 / 1000 ≤ value 0x3A83126F ∧ value 0x3A83126F ≤ 1 / 500 := by
  exact ⟨by decide +kernel, by decide +kernel, by decide +kernel⟩

section Range

variable {k : Kind} {raw : Word}

/-- Only CVT.TPS divides by 1000, and it reads the raw unsigned. -/
theorem quotient_eq_thousandth_or_le (hraw : raw ≠ 0) :
    quotient k raw = ⟨1, 1000⟩ ∨ 1 / 500 ≤ |(rawInt k raw : ℚ) / (scaling k).divisor| := by
  have hpos := scaling_divisor_pos k
  have hn : 1 ≤ (rawInt k raw).natAbs := Int.natAbs_pos.mpr (mt rawInt_eq_zero_iff.mp hraw)
  have hsmall (h : (scaling k).divisor ≤ 500 * (rawInt k raw).natAbs) :
      1 / 500 ≤ |(rawInt k raw : ℚ) / (scaling k).divisor| := by
    rw [abs_div_natCast, div_le_div_iff₀ (by norm_num) (by positivity), one_mul, mul_comm]
    exact_mod_cast h
  cases k with
  | tps =>
    rcases hn.eq_or_lt with hone | htwo
    · refine .inl ?_
      have hraw1 : rawInt .tps raw = 1 := by
        have : rawInt .tps raw = raw.toNat := rfl
        omega
      rw [quotient_eq, hraw1]
      rfl
    · refine .inr (hsmall ?_)
      simp only [scaling]
      omega
  | mc | nc | rh | t | voc | nox | rvoc | rnox | rrh | rt =>
    refine .inr (hsmall ?_)
    simp only [scaling]
    omega

variable (h : raw ≠ (scaling k).sentinel)
include h

theorem natAbs_rawInt_le_range : (rawInt k raw).natAbs ≤ (2 ^ 24 - 1) * 2 ^ 104 * (scaling k).divisor :=
  natAbs_le_range (scaling_divisor_pos k) ((natAbs_rawInt_le h).trans (by norm_num))

theorem finite_rne32_quotient : finite (rne32 (quotient k raw)) :=
  finite_rne32 (scaling_divisor_pos k) (natAbs_rawInt_le_range h)

theorem signBit_rne32_quotient :
    signBit (rne32 (quotient k raw)) = true ↔ (scaling k).signed = true ∧ raw.toInt < 0 :=
  (signBit_rne32 (scaling_divisor_pos k) (natAbs_rawInt_le_range h)).trans rawInt_neg_iff

theorem abs_value_rne32_quotient_le : |value (rne32 (quotient k raw))| ≤ 65534 := by
  have hpos := scaling_divisor_pos k
  have hgrid : OnGrid (65534 : ℕ) := onGrid_natCast (by norm_num)
  refine abs_value_rne32_le hpos (natAbs_rawInt_le_range h) (by exact_mod_cast hgrid) ?_
  have hle : (rawInt k raw).natAbs ≤ 65534 * (scaling k).divisor :=
    (natAbs_rawInt_le h).trans (Nat.le_mul_of_pos_right _ hpos)
  rw [abs_div_natCast, div_le_iff₀ (by positivity)]
  exact_mod_cast hle

theorem thousandth_le_abs_value_rne32_quotient (hraw : raw ≠ 0) : 1 / 1000 ≤ |value (rne32 (quotient k raw))| := by
  obtain ⟨hpattern, hlo, hhi⟩ := rne32_thousandth
  rcases quotient_eq_thousandth_or_le (k := k) hraw with heq | hge
  · rw [heq, hpattern]
    exact hlo.trans (le_abs_self _)
  · exact hlo.trans (le_abs_value_rne32 (scaling_divisor_pos k) (natAbs_rawInt_le_range h) (onGrid_value _) (hhi.trans hge))

/-- A conversion off the sentinel is zero for raw 0 only, and then the positive one. -/
theorem rne32_quotient_eq_zero_iff :
    (rne32 (quotient k raw) = 0 ↔ raw = 0) ∧ rne32 (quotient k raw) ≠ 0x80000000 := by
  by_cases hraw : raw = 0
  · have hzero : rne32 (quotient k raw) = 0 := by
      rw [quotient_eq, rawInt_eq_zero_iff.mpr hraw]
      exact rne32_zero _
    rw [hzero]
    exact ⟨iff_of_true rfl hraw, by decide⟩
  · have hge := thousandth_le_abs_value_rne32_quotient h hraw
    have hne (p : Bits32) (hp : value p = 0) : rne32 (quotient k raw) ≠ p := by
      rintro rfl
      rw [hp] at hge
      norm_num at hge
    exact ⟨iff_of_false (hne 0 (by decide +kernel)) hraw, hne 0x80000000 (by decide +kernel)⟩

end Range

/-- A NaN is neither infinite nor a zero of either sign. -/
theorem not_isInf32_and_ne_zero_of_isNan32 {p : Bits32} (h : isNan32 p = true) :
    isInf32 p = false ∧ p ≠ 0 ∧ p ≠ 0x80000000 := by
  refine ⟨?_, ?_, ?_⟩
  · obtain ⟨-, hfrac⟩ := Bool.and_eq_true_iff.mp h
    rw [isInf32, beq_eq_false_iff_ne.mpr (bne_iff_ne.mp hfrac), Bool.and_false]
  · rintro rfl
    exact absurd h (by decide)
  · rintro rfl
    exact absurd h (by decide)

theorem not_isNan32_and_not_isInf32_of_finite {p : Bits32} (h : finite p) : isNan32 p = false ∧ isInf32 p = false := by
  have hnot := mt (isNan32_or_isInf32_iff p).mp (not_not_intro h)
  simpa using hnot

/-- Settles O28: on the sentinel the value is a NaN pattern; off it the quotient lies between 1/1000 and 65534 in magnitude,
and these bounds survive the rounding. -/
theorem cvtResultsStayInRange : Obligations.CvtResultsStayInRange := by
  intro s k raw
  refine ⟨_, (conv Config.params k raw).1, exec_cvtOf k raw s, rfl, ?_⟩
  by_cases h : raw = (scaling k).sentinel
  · have hnan := isNan32_nanBits Config.params.nan
    obtain ⟨hinf, hpos, hneg⟩ := not_isInf32_and_ne_zero_of_isNan32 hnan
    have hraw : raw ≠ 0 := by
      rw [h]
      cases k <;> decide
    rw [conv_of_sentinel h]
    exact ⟨iff_of_true hnan h, hinf, iff_of_false hpos hraw, hneg, fun hne => absurd h hne⟩
  · obtain ⟨hnan, hinf⟩ := not_isNan32_and_not_isInf32_of_finite (finite_rne32_quotient h)
    obtain ⟨hzero, hneg⟩ := rne32_quotient_eq_zero_iff h
    rw [conv_of_not_sentinel h]
    exact ⟨iff_of_false (by simp [hnan]) h, hinf, hzero, hneg, fun _ => ⟨signBit_rne32_quotient h,
      abs_value_rne32_quotient_le h, thousandth_le_abs_value_rne32_quotient h⟩⟩

/-! ## A register's value gives the register back (R200, R204) -/

section Register

variable {n : ℤ} {d : Nat} (hd : 0 < d) (hn : n.natAbs ≤ 65535)
include hd hn

/-- The rounding error, on the register's scale, is far below half a unit. -/
theorem abs_value_rne32_mul_sub_lt (hscale : d ≤ 10000) : |value (rne32 ⟨n, d⟩) * d - n| < 1 / 2 := by
  have hd' : (0 : ℚ) < d := mod_cast hd
  have hscale' : (d : ℚ) ≤ 10000 := mod_cast hscale
  have hn' : (n.natAbs : ℚ) ≤ 65535 := mod_cast hn
  have herror := abs_value_rne32_sub_le hd (natAbs_le_range hd hn)
  rw [abs_div_natCast] at herror
  calc |value (rne32 ⟨n, d⟩) * d - n| = |value (rne32 ⟨n, d⟩) - n / d| * d := by
        rw [← abs_of_pos hd', ← abs_mul, abs_of_pos hd', sub_mul, div_mul_cancel₀ _ hd'.ne']
    _ ≤ (n.natAbs / d / 2 ^ 24 + 1 / 2 ^ 150) * d := mul_le_mul_of_nonneg_right herror hd'.le
    _ = n.natAbs / 2 ^ 24 + d / 2 ^ 150 := by
        field_simp
    _ ≤ 65535 / 2 ^ 24 + 10000 / 2 ^ 150 := by gcongr
    _ < 1 / 2 := by norm_num

theorem rounds_value_rne32_mul (hscale : d ≤ 10000) (mode : Config.Rounding) :
    rounds mode (value (rne32 ⟨n, d⟩) * d) n :=
  .inl (abs_value_rne32_mul_sub_lt hd hn hscale)

end Register

/-- A time constant has at most 16 bits, so its value is exact. -/
theorem value_rne32_natCast_one {n : Nat} (hn : n ≤ 65535) : value (rne32 ⟨n, 1⟩) = n := by
  have hgrid : OnGrid (((n : ℤ) : ℚ) / (1 : ℕ)) := by
    simpa using onGrid_natCast (n := n) (by omega)
  have hexact := value_rne32_of_onGrid (n := n) one_pos (natAbs_le_range one_pos (by simpa using hn)) hgrid
  simpa using hexact

theorem truncates_intCast (n : ℤ) : truncates n n :=
  ⟨le_rfl, lt_add_one _, mul_self_nonneg _⟩

/-! ## The round trips of the compensation (R204) -/

theorem toList_vector_three (w : Vector Word 3) : w.toList = [w[0], w[1], w[2]] := by
  match w with
  | ⟨⟨[_, _, _]⟩, _⟩ => rfl

/-- DEC.CMP on three committed words. -/
theorem exec_decCmp_of_holds {s : State} {w : Vector Word 3} (hvalid : s.wvalid = true) (hcount : s.wcount.toNat = 3)
    (hholds : holds s w) : exec .decCmp s = .next (respond (cmpRecord w) s) :=
  decodeRecord_ok cmpRecord rfl hvalid hcount (committedWords_eq_some_of_holds hholds)

theorem natAbs_sext16_le (w : Word) : (sext16 w).natAbs ≤ 65535 := by
  have hlt := BitVec.toInt_lt (x := w)
  have hle := BitVec.le_toInt (x := w)
  rw [sext16]
  omega

theorem value_timeConstantSecond (w : Word) : value (timeConstantSecond w) = (zext16 w : ℚ) := by
  have hlt := w.isLt
  exact (value_rne32_natCast_one (by omega)).trans (Int.cast_natCast _).symm

theorem finite_registerValues (w : Word) :
    finite (offsetDegree w) ∧ finite (slopeFactor w) ∧ finite (timeConstantSecond w) := by
  have hlt := w.isLt
  have hsigned := natAbs_sext16_le w
  have hunsigned : (zext16 w).natAbs ≤ 65535 := by
    rw [zext16]
    omega
  exact ⟨finite_rne32 (by decide) (natAbs_le_range (by decide) hsigned),
    finite_rne32 (by decide) (natAbs_le_range (by decide) hsigned),
    finite_rne32 one_pos (natAbs_le_range one_pos hunsigned)⟩

/-- The values of three register words round back to the registers. -/
theorem compIntegers_of_words (p : Config.Params) (w0 w1 w2 : Word) :
    compIntegers p (offsetDegree w0) (slopeFactor w1) (timeConstantSecond w2) = (sext16 w0, sext16 w1, zext16 w2) := by
  refine compIntegers_eq ?_ ?_ ?_
  · exact rounds_value_rne32_mul (d := offsetScale) (by decide) (natAbs_sext16_le w0) (by decide) _
  · exact rounds_value_rne32_mul (d := slopeScale) (by decide) (natAbs_sext16_le w1) (by decide) _
  · rw [value_timeConstantSecond]
    exact truncates_intCast _

/-- Settles O41: the decoded values round back to their registers, and registers always fit their words. -/
theorem compWordsSurviveRoundTrip : Obligations.CompWordsSurviveRoundTrip := by
  intro s w hvalid hcount hholds
  obtain ⟨hoffset, -, -⟩ := finite_registerValues w[0]
  obtain ⟨-, hslope, -⟩ := finite_registerValues w[1]
  obtain ⟨-, -, htime⟩ := finite_registerValues w[2]
  have hrange : compInRange (sext16 w[0], sext16 w[1], zext16 w[2]) = true := by
    simp [compInRange, int16ok_sext16, uint16ok_zext16]
  have hencode := exec_cmpEnc_of_inRange ⟨hoffset, hslope, htime⟩ (compIntegers_of_words _ w[0] w[1] w[2]) hrange
    (respond (cmpRecord w) s)
  refine ⟨_, _, _, _, _, exec_decCmp_of_holds hvalid hcount hholds, rfl, hencode, rfl, ?_⟩
  rw [toList_vector_three]
  simp [compWords, enc16_sext16, enc16_zext16]

/-- Where CMP.ENC ends with OK, its integers were in range, and it reports their words. -/
theorem compInRange_and_rword_of_cmpEnc_ok {x0 x1 x2 : Bits32} {s t : State} (hnext : exec (.cmpEnc x0 x1 x2) s = .next t)
    (hok : t.status = 0) :
    compInRange (compIntegers Config.params x0 x1 x2) = true ∧
      t.rword = compWords (compIntegers Config.params x0 x1 x2) := by
  by_cases hfinite : finite x0 ∧ finite x1 ∧ finite x2
  · by_cases hrange : compInRange (compIntegers Config.params x0 x1 x2) = true
    · rw [exec_cmpEnc_of_inRange hfinite rfl hrange] at hnext
      cases hnext
      exact ⟨hrange, rfl⟩
    · rw [exec_cmpEnc_of_not_inRange hfinite rfl hrange] at hnext
      cases hnext
      exact absurd hok (by simp [Status.code])
  · rw [exec_cmpEnc_of_not_finite hfinite] at hnext
    cases hnext
    exact absurd hok (by simp [Status.code])

/-- CMP.ENC's integer is within half a register unit of its input. -/
theorem abs_value_mul_sub_roundFrac_le (mode : Config.Rounding) (x : Bits32) (k : Nat) :
    |value x * k - roundFrac mode ((val32 x).scale k)| ≤ 1 / 2 := by
  rw [← toRat_val32, ← toRat_scale]
  exact abs_sub_le_of_rounds (rounds_roundFrac mode (by simp [Frac.scale, val32]))

/-- Encoding and decoding each err by at most half a register unit. -/
theorem abs_value_rne32_sub_le_of_near {n : ℤ} {k : Nat} {x : ℚ} (hk : 0 < k) (hscale : k ≤ 10000)
    (hn : n.natAbs ≤ 65535) (hx : |x * k - n| ≤ 1 / 2) : |value (rne32 ⟨n, k⟩) - x| ≤ 1 / k := by
  have hk' : (0 : ℚ) < k := mod_cast hk
  have hv := abs_value_rne32_mul_sub_lt hk hn hscale
  have hscaled : |value (rne32 ⟨n, k⟩) * k - x * k| ≤ 1 / 2 + 1 / 2 := by
    rw [abs_sub_comm] at hx
    exact (abs_sub_le _ (n : ℚ) _).trans (add_le_add hv.le hx)
  rw [← sub_mul, abs_mul, abs_of_pos hk'] at hscaled
  rw [le_div_iff₀ hk']
  linarith

/-- Settles O42: the words committed hold CMP.ENC's integers, from which both values differ by at most half a register unit;
the time constant is exact. -/
theorem compValuesRoundTripWithinTolerance : Obligations.CompValuesRoundTripWithinTolerance := by
  intro s t s' x0 x1 x2 w hnext hok hwords hvalid hcount hholds
  obtain ⟨hrange, hrword⟩ := compInRange_and_rword_of_cmpEnc_ok hnext hok
  rw [hrword, toList_vector_three] at hwords
  simp only [compWords, List.cons.injEq, and_true] at hwords
  simp only [compInRange, Bool.and_eq_true] at hrange
  obtain ⟨hword0, hword1, hword2⟩ := hwords
  obtain ⟨⟨hfit0, hfit1⟩, hfit2⟩ := hrange
  have ho : sext16 w[0] = roundFrac Config.params.compRounding ((val32 x0).scale offsetScale) :=
    hword0 ▸ sext16_enc16 hfit0
  have hsl : sext16 w[1] = roundFrac Config.params.compRounding ((val32 x1).scale slopeScale) :=
    hword1 ▸ sext16_enc16 hfit1
  have ht : zext16 w[2] = truncFrac (val32 x2) := hword2 ▸ zext16_enc16 hfit2
  refine ⟨_, offsetDegree w[0], slopeFactor w[1], timeConstantSecond w[2], exec_decCmp_of_holds hvalid hcount hholds, rfl,
    ?offset, ?slope, zext16 w[2], ?time, value_timeConstantSecond w[2]⟩
  case offset =>
    have hnear := abs_value_mul_sub_roundFrac_le Config.params.compRounding x0 offsetScale
    rw [← ho] at hnear
    simpa [offsetDegree, offsetScale] using abs_value_rne32_sub_le_of_near (by decide) (by decide) (natAbs_sext16_le _) hnear
  case slope =>
    have hnear := abs_value_mul_sub_roundFrac_le Config.params.compRounding x1 slopeScale
    rw [← hsl] at hnear
    simpa [slopeFactor, slopeScale] using abs_value_rne32_sub_le_of_near (by decide) (by decide) (natAbs_sext16_le _) hnear
  case time =>
    rw [ht, ← toRat_val32]
    exact truncates_truncFrac (by simp [val32])

end Sys2Proof.Machine
